-- ==== Sys2Proof/Word.lean ====
section
/-! DEFINITION. The fixed-width integers of the spec's notation (00_scope.md rule R10). -/

namespace Sys2Proof

/-- `u8`: an unsigned byte (R10). -/
abbrev U8 := BitVec 8

/-- `u16`: an unsigned 16-bit integer (R10). -/
abbrev U16 := BitVec 16

/-- `u32`: an unsigned 32-bit integer (R10); the width of time values (R38). -/
abbrev U32 := BitVec 32

/-- `i8`: a two's-complement byte (R10); its signed value is `BitVec.toInt`. -/
abbrev I8 := BitVec 8

/-- The command word `cmd[23:0]` of format C (30_encoding.md rule R90). -/
abbrev CmdWord := BitVec 24

end Sys2Proof
end

