-- ==== Sys2Proof/Syntax.lean ====
section
/-! DEFINITION. The commands of the block (30_encoding.md rules R92 and R93), the instruments and patch fields they name
(10_state.md rules R20 and R21), and why a word can fail to be a command (R94). -/

namespace Sys2Proof

/-- The three instrument slots (00_scope.md rules R7 and R12): bass drum 0, snare drum 1, hi-hat/cymbal 2. -/
inductive Instrument where
  | bd
  | sd
  | hh
deriving DecidableEq, Repr

/-- The six named byte-valued parameters of a DrumPatch (10_state.md rules R20 and R21). -/
inductive PatchField where
  | pitch
  | pitchDecay
  | pitchMod
  | ampDecay
  | crunchiness
  | level
deriving DecidableEq, Repr

/-- The command set, version 1 of the spec: one constructor per row of the opcode map (R93). Operands are the fields of
the command word as the decoder leaves them (R92): an instrument number is the two bits `a[1:0]`, of which the value 3 is
illegal by contract (R94; `Instr.wf`). -/
inductive Instr where
  /-- NOP (R156). -/
  | nop
  /-- TRIG i, v: trigger instrument `i` at velocity `v` (R150). -/
  | trig (i : BitVec 2) (v : U8)
  /-- SETCC cc, v: controller number `cc`, controller value `v` of which bit 7 is dropped (R152). -/
  | setcc (cc v : U8)
  /-- MORPH i, v: morph position `v` of instrument `i` (R151). -/
  | morph (i : BitVec 2) (v : U8)
  /-- SETBW b: bandwidth `b` (R153). -/
  | setbw (b : U8)
  /-- SETBAL m: balance `m` (R154). -/
  | setbal (m : U8)
  /-- RENDER (R210). -/
  | render
  /-- SILENCE (R224). -/
  | silence
  /-- IDLE (R155). -/
  | idle
deriving DecidableEq, Repr

/-- Why a command word, or a byte stream, gives no command (R94). -/
inductive Reject where
  /-- `op` in 0x09..0xFF: reserved (R94, V5 of R251). -/
  | reservedOpcode
  /-- A field the command does not use is not zero: reserved (R94, V5). -/
  | unusedFieldNotZero
  /-- `a >= 4` in TRIG or MORPH: reserved (R94, V5). -/
  | reservedInstrument
  /-- `a = 3` in TRIG or MORPH: illegal by contract (R94, V1). -/
  | illegalInstrument
  /-- A byte stream that ends inside a command's three bytes (R90). -/
  | truncated
deriving DecidableEq, Repr

end Sys2Proof
end

