-- ==== Sys2Proof/WellFormed.lean ====
section
/-! DEFINITION. Which commands are well formed: those the opcode map admits (30_encoding.md rules R92 to R94). -/

namespace Sys2Proof

/-- An instrument operand must be 0, 1 or 2 (R92); 3 is illegal by contract (R94). -/
def instrumentOperandOk (i : BitVec 2) : Bool := i != 3#2

/-- A command is well formed when its operands are in the ranges of R92. Every value of every other operand is legal. -/
def Instr.wf : Instr → Bool
  | .nop => true
  | .trig i _ => instrumentOperandOk i
  | .setcc _ _ => true
  | .morph i _ => instrumentOperandOk i
  | .setbw _ => true
  | .setbal _ => true
  | .render => true
  | .silence => true
  | .idle => true

end Sys2Proof
end

