-- ==== Sys2Proof/Decode.lean ====
section
/-! DEFINITION. The decoder and the encoder of format C (30_encoding.md rules R90 to R95), and the opcode map as data
(R93). Decoding is total: every word, and every byte stream, gives a command or a named rejection. -/

namespace Sys2Proof

/-- `op = cmd[23:16]` (R90). -/
def opField (w : CmdWord) : U8 := w.extractLsb' 16 8

/-- `a = cmd[15:8]` (R90). -/
def aField (w : CmdWord) : U8 := w.extractLsb' 8 8

/-- `b = cmd[7:0]` (R90). -/
def bField (w : CmdWord) : U8 := w.extractLsb' 0 8

/-- The word made of the three fields: `op` in bits 23:16, `a` in 15:8, `b` in 7:0 (R90). -/
def joinFields (op a b : U8) : CmdWord := BitVec.ofNat 24 (65536 * op.toNat + 256 * a.toNat + b.toNat)

/-- The instrument operand of TRIG and MORPH (R92, R94): 3 is illegal by contract, 4 and above are reserved. -/
def decodeInstrument (a : U8) : Except Reject (BitVec 2) :=
  if a.toNat < 3 then .ok (a.setWidth 2)
  else if a.toNat = 3 then .error .illegalInstrument
  else .error .reservedInstrument

/-- A command whose unused operand fields must be zero (R92, last sentence; R94). -/
def requireZero (unused : Bool) (i : Instr) : Except Reject Instr :=
  if unused then .ok i else .error .unusedFieldNotZero

/-- The decoder: the opcode map of R93, every other word rejected by name (R94). -/
def decode (w : CmdWord) : Except Reject Instr :=
  let a := aField w
  let b := bField w
  match (opField w).toNat with
  | 0 => requireZero (a == 0#8 && b == 0#8) .nop
  | 1 => (decodeInstrument a).map (fun i => .trig i b)
  | 2 => .ok (.setcc a b)
  | 3 => (decodeInstrument a).map (fun i => .morph i b)
  | 4 => requireZero (a == 0#8) (.setbw b)
  | 5 => requireZero (a == 0#8) (.setbal b)
  | 6 => requireZero (a == 0#8 && b == 0#8) .render
  | 7 => requireZero (a == 0#8 && b == 0#8) .silence
  | 8 => requireZero (a == 0#8 && b == 0#8) .idle
  | _ => .error .reservedOpcode

/-- The encoder, from the same map (R93). -/
def encode : Instr → CmdWord
  | .nop => joinFields 0x00#8 0#8 0#8
  | .trig i v => joinFields 0x01#8 (i.setWidth 8) v
  | .setcc cc v => joinFields 0x02#8 cc v
  | .morph i v => joinFields 0x03#8 (i.setWidth 8) v
  | .setbw b => joinFields 0x04#8 0#8 b
  | .setbal m => joinFields 0x05#8 0#8 m
  | .render => joinFields 0x06#8 0#8 0#8
  | .silence => joinFields 0x07#8 0#8 0#8
  | .idle => joinFields 0x08#8 0#8 0#8

/-- The three bytes of a command on a byte stream, in the order `op`, `a`, `b` (R90). -/
def encodeBytes (i : Instr) : List U8 :=
  [opField (encode i), aField (encode i), bField (encode i)]

/-- The first command of a byte stream and the bytes after it (R90, R95: every command has three bytes). -/
def decodeBytes : List U8 → Except Reject (Instr × List U8)
  | op :: a :: b :: rest => (decode (joinFields op a b)).map (fun i => (i, rest))
  | _ => .error .truncated

/-- One row of the opcode map (R93). -/
structure OpcodeRow where
  mnemonic : String
  pattern : CmdWord
  mask : CmdWord
  /-- The row's extra condition `a != 3`. -/
  instrumentRow : Bool
deriving DecidableEq, Repr

/-- The opcode map of R93, row by row. -/
def opcodeMap : List OpcodeRow :=
  [⟨"NOP", 0x000000#24, 0xFFFFFF#24, false⟩,
   ⟨"TRIG", 0x010000#24, 0xFFFC00#24, true⟩,
   ⟨"SETCC", 0x020000#24, 0xFF0000#24, false⟩,
   ⟨"MORPH", 0x030000#24, 0xFFFC00#24, true⟩,
   ⟨"SETBW", 0x040000#24, 0xFFFF00#24, false⟩,
   ⟨"SETBAL", 0x050000#24, 0xFFFF00#24, false⟩,
   ⟨"RENDER", 0x060000#24, 0xFFFFFF#24, false⟩,
   ⟨"SILENCE", 0x070000#24, 0xFFFFFF#24, false⟩,
   ⟨"IDLE", 0x080000#24, 0xFFFFFF#24, false⟩]

/-- "a word w selects the row when `(w & mask) == match` and the row's extra condition holds" (R93). -/
def OpcodeRow.selects (r : OpcodeRow) (w : CmdWord) : Bool :=
  (w &&& r.mask == r.pattern) && (!r.instrumentRow || aField w != 3#8)

/-- The mnemonic of a command (R93, R96). -/
def Instr.mnemonic : Instr → String
  | .nop => "NOP"
  | .trig _ _ => "TRIG"
  | .setcc _ _ => "SETCC"
  | .morph _ _ => "MORPH"
  | .setbw _ => "SETBW"
  | .setbal _ => "SETBAL"
  | .render => "RENDER"
  | .silence => "SILENCE"
  | .idle => "IDLE"

/-- The command the decoder reads from the bits `w`, numbered as the opcode table numbers them (one 24-bit word, bit 0 the
least significant). Bits the 24-bit command word does not have are no command. -/
def decodeTableWord (nbits w : Nat) : Option Instr :=
  if w % 2 ^ nbits < 2 ^ 24 then
    match decode (BitVec.ofNat 24 (w % 2 ^ nbits)) with
    | .ok i => some i
    | .error _ => none
  else none

end Sys2Proof
end

