-- ==== Sys2Proof/Config.lean ====
section
/-! DEFINITION. The configuration record `cfg` (00_scope.md rule R8): everything the source names without a value. -/

namespace Sys2Proof

/-- A flat patch offset 0..17 (10_state.md rule R22). -/
abbrev PatchOffset := Fin 18

/-- A table of `n` entries, index 0 first: a list with its length. -/
structure Table (α : Type) (n : Nat) where
  entries : List α
  entries_length : entries.length = n
deriving DecidableEq, Repr

/-- The entry at an index. -/
def Table.get {α : Type} {n : Nat} (T : Table α n) (i : Fin n) : α :=
  T.entries[i.val]'(by rw [T.entries_length]; exact i.isLt)

/-- The parameters of R8. All are OPEN in the spec: no meaning of this model reads a value for one of them from anywhere
but this record. The lengths of the tables and the ranges of their entries (the column "type" of R8) are part of the types,
so that no index outside a table can be formed (20_memory.md rule R67, violation V2 of R251); the conditions on the values
(the column "well-formedness") are `Config.wf`. -/
structure Config where
  /-- BLOCK_SIZE: samples per render block. -/
  blockSize : Nat
  /-- OUT_CAPACITY: capacity of the audio sink in samples. -/
  outCapacity : Nat
  /-- WAV_SINE, index 0..256: the waveform, offset binary. -/
  wavSine : Table U8 257
  /-- ENV_CURVE, index 0..256: the decay curve of the amplitude and pitch envelopes. -/
  envCurve : Table U8 257
  /-- PHASE_INC, index 0..256: pitch to phase increment. -/
  phaseInc : Table U16 257
  /-- ENV_INC, index 0..255: decay rate to envelope increment. -/
  envInc : Table U16 256
  /-- PRESET: instrument, preset 0..4, field 0..4 (20_memory.md rule R64). -/
  preset : Table (Table (Table U8 5) 5) 3
  /-- CC_MAP, entry n for controller 16 + n (20_memory.md rule R65). -/
  ccMap : Table PatchOffset 15
  /-- HH_POS: the hi-hat's fixed positive level, signed. -/
  hhPos : I8
  /-- HH_NEG: the hi-hat's fixed negative level, signed. -/
  hhNeg : I8
  /-- SILENCE_TARGET: the value SILENCE moves the held sample toward. -/
  silenceTarget : U8
deriving DecidableEq, Repr

end Sys2Proof
end

