-- ==== Sys2Proof/Machine/Arith.lean ====
section
/-! DEFINITION. The fixed-point arithmetic and lookup functions (40_arithmetic.md). As R10 and R129 (c) ask, every product
and sum is formed exactly on unbounded integers and narrowed once, at the end. Division of an `Int` by a positive number
rounds toward minus infinity, which is the arithmetic right shift of R10 and R129 (d). -/

namespace Sys2Proof.Machine

/-- `v[15:8]` of a 16-bit value (R10, R66). -/
def hiByte (v : U16) : U8 := v.extractLsb' 8 8

/-- `v[7:0]` of a 16-bit value (R10, R66). -/
def loByte (v : U16) : U8 := v.extractLsb' 0 8

/-- The table index made of the high byte of a phase or pitch (R123, R124, R130). -/
def tableIndex (v : U16) : Fin 256 := (hiByte v).toFin

/-- `mulhi8(a, b) = floor(a*b / 256)` (R120). -/
def mulhi8 (a b : U8) : U8 := BitVec.ofNat 8 (a.toNat * b.toNat / 256)

/-- `smul8(s, u) = floor(s*u / 256)`, signed (R121). -/
def smul8 (s : Int) (u : U8) : Int := s * u.toNat / 256

/-- `div255(x) = floor(x / 255)` (R126). -/
def div255 (x : Nat) : U8 := BitVec.ofNat 8 (x / 255)

/-- `mix8(a, b, w) = a + floor((b - a)*w / 256)` (R122). -/
def mix8 (a b w : U8) : U8 :=
  BitVec.ofInt 8 ((a.toNat : Int) + ((b.toNat : Int) - a.toNat) * w.toNat / 256)

/-- `interp8(T, p)`: interpolation between `T[i]` and `T[i+1]`, `i` the high byte of `p`, weighted by its low byte (R123). -/
def interp8 (T : Table U8 257) (p : U16) : U8 :=
  mix8 (T.get (tableIndex p).castSucc) (T.get (tableIndex p).succ) (loByte p)

/-- `interp16(T, x) = T[i] + floor((T[i+1] - T[i])*f / 256)` (R124). -/
def interp16 (T : Table U16 257) (x : U16) : U16 :=
  BitVec.ofInt 16 (((T.get (tableIndex x).castSucc).toNat : Int) +
    (((T.get (tableIndex x).succ).toNat : Int) - (T.get (tableIndex x).castSucc).toNat) * (loByte x).toNat / 256)

/-- `lookup_byte` on a signal table by a byte index: never reads index 256 (R80, R130). -/
def lookupByte (T : Table U8 257) (i : Fin 256) : U8 := T.get i.castSucc

/-- `lookup_word` on ENV_INC by a byte (R80, R130). -/
def lookupWord (T : Table U16 256) (i : U8) : U16 := T.get i.toFin

/-- `sat8(v)`: clamp to 0..255 (R125). -/
def sat8 (v : Int) : U8 := if v < 0 then 0#8 else if v > 255 then 255#8 else BitVec.ofInt 8 v

/-- `ctr(u) = u - 128`: offset binary to signed (R131). -/
def ctr (u : U8) : Int := (u.toNat : Int) - 128

/-- `acc16(p, d) = (p + d) mod 65536` (R127). -/
def acc16 (p d : U16) : U16 := p + d

/-- "the addition did not increase the accumulator": `(p + d) mod 65536 <= p` (R128). -/
def envFinishes (p d : U16) : Bool := decide ((p.toNat + d.toNat) % 65536 ≤ p.toNat)

/-- The phase `envadv(p, d)` leaves (R128). -/
def envNextPhase (p d : U16) : U16 := if envFinishes p d then 0xFFFF#16 else p + d

/-- The increment `envadv(p, d)` leaves (R128). -/
def envNextIncrement (p d : U16) : U16 := if envFinishes p d then 0#16 else d

/-- `envadv(p, d)` as the triple of R128: phase, increment, finished. -/
def envadv (p d : U16) : U16 × U16 × Bool := (envNextPhase p d, envNextIncrement p d, envFinishes p d)

/-- One advance of an envelope's pair (phase, increment) (R128). -/
def advanceEnvelope (e : U16 × U16) : U16 × U16 := (envNextPhase e.1 e.2, envNextIncrement e.1 e.2)

/-- The renderer's noise update, `noise*73 + 1` on 8 bits (R212). -/
def noiseStep (n : U8) : U8 := BitVec.ofNat 8 (n.toNat * 73 + 1)

end Sys2Proof.Machine
end

