-- ==== Sys2Proof/Machine/Flags.lean ====
section
/-! DEFINITION. The one status flag, `playing` (10_state.md rule R36). There are no condition codes (R37): the condition
"did not increase" is `envFinishes`, consumed in the step that produces it; saturation and carries set nothing. -/

namespace Sys2Proof.Machine

/-- `playing` after TRIG: "marks the engine as actively playing" (R150). -/
def playingAfterTrig : Bool := true

/-- `playing` when UPDMOD starts: "recomputed fresh each call" (R36, R180). -/
def playingAtUpdmodStart : Bool := false

/-- `playing` after one amplitude-envelope advance from phase `p` by increment `d`: set unless that advance finished (R181). -/
def playingAfterAdvance (playing : Bool) (p d : U16) : Bool := playing || !envFinishes p d

end Sys2Proof.Machine
end

