-- ==== Sys2Proof/Machine/Operands.lean ====
section
/-! DEFINITION. What the commands make of their operands (30_encoding.md rule R92; 41_patch_control.md), and the numbers of
instruments and patch fields (10_state.md rules R20 to R22; 20_memory.md rule R62). -/

namespace Sys2Proof

/-- The instrument's number (R7). -/
def Instrument.index : Instrument → Fin 3
  | .bd => 0
  | .sd => 1
  | .hh => 2

/-- The field's index in its DrumPatch (R21). -/
def PatchField.index : PatchField → Fin 6
  | .pitch => 0
  | .pitchDecay => 1
  | .pitchMod => 2
  | .ampDecay => 3
  | .crunchiness => 4
  | .level => 5

/-- The flat offset `6*instrument + field-index` (R22, R62). -/
def flatOffset (k : Instrument) (f : Fin 6) : PatchOffset :=
  ⟨6 * k.index.val + f.val, by have := k.index.isLt; omega⟩

/-- The flat offset of a named field (R22). -/
def fieldOffset (k : Instrument) (f : PatchField) : PatchOffset := flatOffset k f.index

namespace Machine

/-- The instrument an operand names (R92); 3 names none (R94). -/
def instrumentOf (i : BitVec 2) : Option Instrument :=
  match i.toNat with
  | 0 => some .bd
  | 1 => some .sd
  | 2 => some .hh
  | _ => none

/-- The CC_MAP entry of a controller number: 16..30 only (R92, R152; 20_memory.md rule R65). -/
def ccEntry (cc : U8) : Option (Fin 15) :=
  if h : 16 ≤ cc.toNat ∧ cc.toNat ≤ 30 then some ⟨cc.toNat - 16, by omega⟩ else none

/-- The byte SETCC writes: the 7-bit controller value shifted left by one, bit 7 dropped (R92, R152). -/
def ccValue (b : U8) : U8 := BitVec.ofNat 8 (2 * b.toNat)

/-- MORPH's pair number `v[7:6]`: presets k and k + 1 (R151). -/
def morphPair (v : U8) : Fin 4 := (v.extractLsb' 6 2).toFin

/-- MORPH's weight `v[5:0] << 2` (R151). -/
def morphWeight (v : U8) : U8 := (v.extractLsb' 0 6).setWidth 8 <<< 2

/-- The decimation factor of a bandwidth: `(~b)[7:0] >> 3` (R153). -/
def decimationOf (b : U8) : U8 := ~~~b >>> 3

/-- SETBAL's bass-drum level (R154). -/
def balanceBass (m : U8) : U8 := if m.toNat < 128 then 255#8 else ~~~(m <<< 1)

/-- SETBAL's snare level (R154). -/
def balanceSnare (m : U8) : U8 := if m.toNat < 128 then m <<< 1 else 255#8

/-- SETBAL's hi-hat level: half the snare's (R154). -/
def balanceHihat (m : U8) : U8 := balanceSnare m >>> 1

/-- IDLE's answer: `(now_ms - last_event_time) mod 2^32` (R155). -/
def elapsed (now last : U32) : U32 := now - last

end Machine

end Sys2Proof
end

