-- ==== Sys2Proof/Machine/Configuration.lean ====
section
/-! DEFINITION. The well-formedness conditions of a configuration and the spec's reference configuration REFCFG
(00_scope.md rule R8; 95_test_vectors.md section 1). -/

namespace Sys2Proof

/-- Every two neighbours of a list are related: how R8 puts its conditions on `T[i]` and `T[i+1]`. -/
def neighbours {α : Type} (related : α → α → Bool) : List α → Bool
  | x :: y :: rest => related x y && neighbours related (y :: rest)
  | _ => true

/-- `abs(y - x) <= 127`: the condition on neighbouring WAV_SINE entries (R8, U13). -/
def narrowStep (x y : U8) : Bool := decide (x.toNat ≤ y.toNat + 127) && decide (y.toNat ≤ x.toNat + 127)

/-- `x <= y`: the condition on neighbouring PHASE_INC entries (R8, U14). -/
def notFalling (x y : U16) : Bool := decide (x.toNat ≤ y.toNat)

/-- The well-formedness conditions of R8. That every CC_MAP entry is at most 17, and every length, is in the types. -/
def Config.wf (c : Config) : Bool :=
  decide (1 ≤ c.blockSize) && decide (c.blockSize ≤ c.outCapacity) &&
  neighbours narrowStep c.wavSine.entries &&
  neighbours notFalling c.phaseInc.entries &&
  decide ((c.ccMap.get 0).val ≤ 5) &&
  decide (1 ≤ c.hhPos.toInt) && decide (c.hhNeg.toInt ≤ -1)

/-- REFCFG WAV_SINE, index 0..256 (95_test_vectors.md section 1; "the list is the definition"). -/
def refWaveList : List U8 :=
  [128, 131, 134, 137, 140, 144, 147, 150, 153, 156, 159, 162, 165, 168, 171, 174,
   177, 179, 182, 185, 188, 191, 193, 196, 199, 201, 204, 206, 209, 211, 213, 216,
   218, 220, 222, 224, 226, 228, 230, 232, 234, 235, 237, 239, 240, 241, 243, 244,
   245, 246, 248, 249, 250, 250, 251, 252, 253, 253, 254, 254, 254, 255, 255, 255,
   255, 255, 255, 255, 254, 254, 254, 253, 253, 252, 251, 250, 250, 249, 248, 246,
   245, 244, 243, 241, 240, 239, 237, 235, 234, 232, 230, 228, 226, 224, 222, 220,
   218, 216, 213, 211, 209, 206, 204, 201, 199, 196, 193, 191, 188, 185, 182, 179,
   177, 174, 171, 168, 165, 162, 159, 156, 153, 150, 147, 144, 140, 137, 134, 131] ++
  [128, 125, 122, 119, 116, 112, 109, 106, 103, 100, 97, 94, 91, 88, 85, 82,
   79, 77, 74, 71, 68, 65, 63, 60, 57, 55, 52, 50, 47, 45, 43, 40,
   38, 36, 34, 32, 30, 28, 26, 24, 22, 21, 19, 17, 16, 15, 13, 12,
   11, 10, 8, 7, 6, 6, 5, 4, 3, 3, 2, 2, 2, 1, 1, 1,
   1, 1, 1, 1, 2, 2, 2, 3, 3, 4, 5, 6, 6, 7, 8, 10,
   11, 12, 13, 15, 16, 17, 19, 21, 22, 24, 26, 28, 30, 32, 34, 36,
   38, 40, 43, 45, 47, 50, 52, 55, 57, 60, 63, 65, 68, 71, 74, 77,
   79, 82, 85, 88, 91, 94, 97, 100, 103, 106, 109, 112, 116, 119, 122, 125,
   128]

/-- A table given by a formula for its entries. -/
def tableOf {α : Type} (n : Nat) (f : Nat → α) : Table α n :=
  ⟨(List.range n).map f, by simp⟩

/-- REFCFG PRESET, instrument by instrument (95_test_vectors.md section 1). -/
def refPreset : Table (Table (Table U8 5) 5) 3 :=
  ⟨[⟨[⟨[60, 18, 104, 120, 0], rfl⟩, ⟨[48, 40, 160, 200, 32], rfl⟩, ⟨[72, 10, 64, 80, 96], rfl⟩,
      ⟨[36, 60, 220, 240, 160], rfl⟩, ⟨[90, 4, 16, 40, 255], rfl⟩], rfl⟩,
    ⟨[⟨[100, 30, 40, 100, 64], rfl⟩, ⟨[120, 20, 80, 140, 128], rfl⟩, ⟨[140, 50, 20, 60, 192], rfl⟩,
      ⟨[110, 8, 120, 180, 255], rfl⟩, ⟨[160, 16, 0, 220, 16], rfl⟩], rfl⟩,
    ⟨[⟨[200, 0, 0, 60, 0], rfl⟩, ⟨[220, 0, 0, 120, 128], rfl⟩, ⟨[180, 0, 0, 200, 255], rfl⟩,
      ⟨[240, 0, 0, 30, 64], rfl⟩, ⟨[250, 0, 0, 250, 200], rfl⟩], rfl⟩], rfl⟩

/-- REFCFG (R8, column "REFCFG"): the spec's own test data, not the firmware's. Only `Machine.State.reset` and tests use
it; no meaning does. -/
def Config.refcfg : Config where
  blockSize := 8
  outCapacity := 32
  wavSine := ⟨refWaveList, by decide +kernel⟩
  envCurve := tableOf 257 (fun i => BitVec.ofNat 8 (255 - i))
  phaseInc := tableOf 257 (fun i => BitVec.ofNat 16 (100 + 40 * i))
  envInc := tableOf 256 (fun i => BitVec.ofNat 16 (8192 - 32 * i))
  preset := refPreset
  ccMap := ⟨[0, 1, 2, 3, 4, 5, 6, 7, 8, 9, 10, 11, 12, 15, 16], rfl⟩
  hhPos := 64
  hhNeg := -64
  silenceTarget := 0

end Sys2Proof
end

