-- ==== Sys2Proof/Machine/State.lean ====
section
/-! DEFINITION. The state of the block and of the environment at its ports, why a step can stop, and the state after reset
(10_state.md; 20_memory.md rule R70; 30_encoding.md rule R91; 70_reset_and_hazards.md rules R280 and R281). -/

namespace Sys2Proof.Machine

/-- A byte space as (address, byte) pairs in canonical form: addresses strictly rising, no entry equal to what an unlisted
address reads as (`Memory.wf`). The one writable space of the block is PATCH (20_memory.md rule R60). -/
abbrev Memory := List Host.Cell

/-- A DrumState record: the nine registers of one voice (10_state.md rule R27). -/
structure DrumState where
  /-- Primary oscillator phase accumulator. -/
  phase : U16
  /-- Pitch-envelope accumulator; the hi-hat's second operator phase (R29). -/
  pitchEnvPhase : U16
  /-- Amplitude-envelope accumulator. -/
  ampEnvPhase : U16
  /-- Pitch-envelope increment; the hi-hat's second operator increment (R29). -/
  pitchEnvIncrement : U16
  /-- Amplitude-envelope increment. -/
  ampEnvIncrement : U16
  /-- Oscillator step of the current block. -/
  phaseIncrement : U16
  /-- Gain captured at trigger time. -/
  level : U8
  /-- Amplitude level of the tonal component. -/
  ampLevel : U8
  /-- Amplitude level of the noise component. -/
  ampLevelNoise : U8
deriving DecidableEq, Repr

/-- `st[0]`, `st[1]`, `st[2]` (R27). -/
structure Voices where
  bd : DrumState
  sd : DrumState
  hh : DrumState
deriving DecidableEq, Repr

/-- The values on the input ports while a command runs (30_encoding.md rule R91): the free inputs of a step (00_scope.md
rule R9). They are the environment's, not the block's: `step` writes all three anew when it accepts a command. -/
structure Inputs where
  /-- `now_ms`: the external millisecond clock. -/
  nowMs : U32
  /-- `rnd`: the external pseudo-random byte. -/
  rnd : U8
  /-- `snk_writable`: the free capacity the environment reports. -/
  writable : Nat
deriving DecidableEq, Repr

/-- What the environment does next at the block's boundary (20_memory.md rules R70 and R76; 30_encoding.md rule R91). -/
inductive Event where
  /-- A word on the command port with the values of the free inputs it samples. `writable` is `none` where the sink itself
  reports (R70) and `some n` where the environment reports `n` (R292). -/
  | command (cmd : CmdWord) (nowMs : U32) (rnd : U8) (writable : Option Nat)
  /-- DRAIN: the sink driver removes the oldest sample (R70). -/
  | drain
  /-- The assertion of `rst` (R280). -/
  | rst
deriving DecidableEq, Repr

/-- The machine: the block's registers (10_state.md), the configuration, and the environment at its ports. -/
structure State where
  /-- `cfg` (R8): constant for the life of the model (R39); no step writes it. -/
  cfg : Config
  /-- The PATCH space: the three DrumPatch records laid out flat (R20, R22). -/
  patch : Memory
  /-- The voice register file `st[0..2]` (R27). -/
  voices : Voices
  /-- `sample_rate`: the decimation factor (R24). -/
  sampleRate : U8
  /-- `sample`: the held output sample (R33). -/
  sample : U8
  /-- `sample_counter`: the decimation counter (R33). -/
  sampleCounter : U8
  /-- `noise`: the renderer's own noise generator (R34). -/
  noise : U8
  /-- `fade_counter`: the silence fade-out counter (R35). -/
  fadeCounter : U8
  /-- `playing`: the only status flag (R36). -/
  playing : Bool
  /-- `last_event_time`: the clock at the most recent TRIG (R38). -/
  lastEventTime : U32
  /-- The input ports (R91). -/
  inputs : Inputs
  /-- The sink's queue, oldest sample first (R70). -/
  fifo : List U8
  /-- The samples the sink driver has removed, oldest first (R70). -/
  drained : List U8
  /-- The response stream `rsp`, oldest first (R91, R155). -/
  responses : List U32
  /-- What the environment does next, in order of arrival (R40, R76). -/
  arrivals : List Event
deriving DecidableEq, Repr

/-- The reasons a step can fault: none. "The block raises no synchronous exception and has no cause codes"
(60_exceptions.md rule R250). -/
inductive Fault where
deriving DecidableEq, Repr

/-- The reasons a step has no meaning (60_exceptions.md rules R251 and R253). Every one is safe: the run ends, so a claim
about what follows cannot be proved. -/
inductive Refusal where
  /-- Raised by `exec` alone, for a command that has no meaning in this model yet. Safe. -/
  | notModelled (mnemonic : String)
  /-- V5: a reserved command word (R94). Raised by `step` when the decoder rejects the word; `why` is never
  `illegalInstrument`. Safe. -/
  | reservedWord (why : Reject)
  /-- V1: instrument operand 3 in TRIG or MORPH (R94). Raised by `step` at decode, and by the two meanings for the
  ill-formed operand. Safe. -/
  | illegalInstrument
  /-- V6 (and V2): a configuration that fails a condition of R8. Raised by `step`. Safe. -/
  | illFormedConfiguration
  /-- V3: the environment reports a `writable` larger than the true free capacity (R251, R292). Raised by the meanings of
  RENDER and SILENCE, which sample it. Safe. -/
  | sinkOverReported
  /-- A DRAIN step of the environment on an empty sink, which R70 does not admit ("whenever the queue is non-empty").
  Raised by `step`. Safe. -/
  | drainOfEmptySink
deriving DecidableEq, Repr

/-- All nine registers 0: the reset value of a DrumState (10_state.md rule R42). -/
def DrumState.zero : DrumState where
  phase := 0
  pitchEnvPhase := 0
  ampEnvPhase := 0
  pitchEnvIncrement := 0
  ampEnvIncrement := 0
  phaseIncrement := 0
  level := 0
  ampLevel := 0
  ampLevelNoise := 0

/-- The launch state of a configuration: the reset values of R42 and R280, an empty sink with `writable` = OUT_CAPACITY
(R281), nothing pushed, nothing answered, nothing arrived. The clock and the random source are external and have no reset
value; the 0 on their ports is a DESIGN CHOICE that no command ever reads (assumption 3). -/
def State.resetOf (c : Config) : State where
  cfg := c
  patch := []
  voices := ⟨DrumState.zero, DrumState.zero, DrumState.zero⟩
  sampleRate := 0
  sample := 128
  sampleCounter := 0
  noise := 0
  fadeCounter := 255
  playing := false
  lastEventTime := 0
  inputs := ⟨0, 0, c.outCapacity⟩
  fifo := []
  drained := []
  responses := []
  arrivals := []

/-- The machine right after reset. The spec makes the configuration an argument of the model; a single reset state has to
name one, and it is REFCFG (DESIGN CHOICE, unsafe; assumption 1). Statements about reset are made of `State.resetOf`. -/
def State.reset : State := State.resetOf Config.refcfg

end Sys2Proof.Machine
end

