-- ==== Sys2Proof/Machine/Ops.lean ====
section
/-! DEFINITION. The named operations over the PATCH space, the voice registers, the sink, the ports and reset
(20_memory.md; 30_encoding.md rule R91; 70_reset_and_hazards.md rule R280). The block takes no exception and returns from
none (60_exceptions.md rules R250 and R256), so no operation here enters or leaves one; what takes its place is to refuse
(R253). -/

namespace Sys2Proof.Machine

/-- What an unlisted PATCH byte reads as: its reset value 0 (10_state.md rule R42). -/
def Memory.unlisted : U8 := 0#8

/-- The byte at an address. -/
def Memory.read : Memory → Nat → U8
  | [], _ => Memory.unlisted
  | (a, v) :: rest, k => if a = k then v else Memory.read rest k

/-- One byte written, the canonical form kept: an entry equal to the unlisted value is not listed. -/
def Memory.write : Memory → Nat → U8 → Memory
  | [], k, v => if v = Memory.unlisted then [] else [(k, v)]
  | (a, x) :: rest, k, v =>
    if a < k then (a, x) :: Memory.write rest k v
    else if a = k then (if v = Memory.unlisted then rest else (k, v) :: rest)
    else (if v = Memory.unlisted then (a, x) :: rest else (k, v) :: (a, x) :: rest)

/-- Every listed address is at least `lo` and below `hi`, addresses strictly rise, no entry is the unlisted value. -/
def Memory.wfFrom (lo hi : Nat) : Memory → Bool
  | [] => true
  | (a, v) :: rest => decide (lo ≤ a) && decide (a < hi) && decide (v ≠ Memory.unlisted) && Memory.wfFrom (a + 1) hi rest

/-- The canonical form of the PATCH space: 18 bytes, index 0..17 (R60). -/
def Memory.wf (m : Memory) : Bool := Memory.wfFrom 0 18 m

/-- `PATCH[o]` (R22, R61). -/
def State.patchByte (s : State) (o : PatchOffset) : U8 := s.patch.read o.val

/-- `PATCH[o] <- v` (R22, R61). -/
def State.writePatch (s : State) (o : PatchOffset) (v : U8) : State := { s with patch := s.patch.write o.val v }

/-- `patch[i].f` (R20, R22). -/
def State.field (s : State) (k : Instrument) (f : PatchField) : U8 := s.patchByte (fieldOffset k f)

/-- `patch[i].f <- v` (R20, R22). -/
def State.setField (s : State) (k : Instrument) (f : PatchField) (v : U8) : State := s.writePatch (fieldOffset k f) v

/-- `st[i]` of a voice register file (R27). -/
def Voices.get (vs : Voices) : Instrument → DrumState
  | .bd => vs.bd
  | .sd => vs.sd
  | .hh => vs.hh

/-- The voice register file with `st[i]` replaced (R27). -/
def Voices.set (vs : Voices) (k : Instrument) (d : DrumState) : Voices :=
  match k with
  | .bd => { vs with bd := d }
  | .sd => { vs with sd := d }
  | .hh => { vs with hh := d }

/-- `st[i]` (R27). -/
def State.voice (s : State) (k : Instrument) : DrumState := s.voices.get k

/-- `st[i]` replaced, every other register as it was (R27). -/
def State.setVoice (s : State) (k : Instrument) (d : DrumState) : State := { s with voices := s.voices.set k d }

/-- The sink's true free capacity, OUT_CAPACITY - length(fifo) (R70). -/
def State.freeCapacity (s : State) : Nat := s.cfg.outCapacity - s.fifo.length

/-- The environment reports no more room than there is (R292); otherwise V3 of R251. -/
def State.reportHonest (s : State) : Bool := decide (s.inputs.writable ≤ s.freeCapacity)

/-- All values ever pushed, in order: the observable output (R70). -/
def State.pushed (s : State) : List U8 := s.drained ++ s.fifo

/-- `Push(v)`: append one sample to the sink (R11, R70). -/
def State.push (s : State) (v : U8) : State := { s with fifo := s.fifo ++ [v] }

/-- `repeat n times: Push(v)` (R224). -/
def State.pushMany (s : State) (n : Nat) (v : U8) : State := { s with fifo := s.fifo ++ List.replicate n v }

/-- `Respond(v)`: put `v` on the response port (R11, R91). -/
def State.respond (s : State) (v : U32) : State := { s with responses := s.responses ++ [v] }

/-- A command is accepted at the port (R91): the word leaves the arrivals and the free inputs are sampled (R9). Where the
environment makes no report of its own, `writable` is the sink's free capacity (R70). -/
def State.accept (s : State) (nowMs : U32) (rnd : U8) (writable : Option Nat) (rest : List Event) : State :=
  { s with inputs := ⟨nowMs, rnd, writable.getD s.freeCapacity⟩, arrivals := rest }

/-- One DRAIN step: the oldest sample leaves the sink (R70). On an empty sink there is no such step. -/
def State.drain (s : State) (rest : List Event) : Host.Outcome State Fault Refusal :=
  match s.fifo with
  | [] => .refused .drainOfEmptySink
  | v :: later => .next { s with fifo := later, drained := s.drained ++ [v], arrivals := rest }

/-- The assertion of `rst`: every register of the block to its value in R42, nothing pushed, nothing answered; the
configuration, the sink, the clock and the random source are not reset (R280, R281, R286). -/
def State.hardReset (s : State) (rest : List Event) : State :=
  { State.resetOf s.cfg with
    inputs := s.inputs, fifo := s.fifo, drained := s.drained, responses := s.responses, arrivals := rest }

/-- What refusing a command word is called (R251): V1 for instrument 3, V5 for every reserved word. -/
def refusalOf : Reject → Refusal
  | .illegalInstrument => .illegalInstrument
  | why => .reservedWord why

/-- Run `act` on the instrument an operand names; refuse operand 3 (R94, V1). -/
def onInstrument (i : BitVec 2) (s : State) (act : Instrument → State → State) : Host.Outcome State Fault Refusal :=
  match instrumentOf i with
  | some k => .next (act k s)
  | none => .refused .illegalInstrument

/-- Run `act` when the sink's report is honest; refuse an over-report (R251 V3, R292). -/
def withSinkReport (s : State) (act : State → State) : Host.Outcome State Fault Refusal :=
  if s.reportHonest then .next (act s) else .refused .sinkOverReported

end Sys2Proof.Machine
end

