-- ==== Sys2Proof/Machine/PatchControl.lean ====
section
/-! DEFINITION. The patch-control commands TRIG, MORPH, SETCC, SETBW and SETBAL (41_patch_control.md rules R150 to R154). -/

namespace Sys2Proof.Machine

/-- The six voice registers TRIG writes, from the instrument's patch (R31, R150). -/
def triggeredVoice (s : State) (k : Instrument) (v : U8) : DrumState :=
  { s.voice k with
    phase := 0
    pitchEnvPhase := 0
    ampEnvPhase := 0
    pitchEnvIncrement := lookupWord s.cfg.envInc (s.field k .pitchDecay)
    ampEnvIncrement := lookupWord s.cfg.envInc (s.field k .ampDecay)
    level := mulhi8 v (s.field k .level) }

/-- The effect of TRIG on a legal instrument (R150). -/
def trigger (v : U8) (k : Instrument) (s : State) : State :=
  { s.setVoice k (triggeredVoice s k v) with lastEventTime := s.inputs.nowMs, playing := playingAfterTrig }

/-- TRIG i, v (R150). -/
def execTrig (i : BitVec 2) (v : U8) (s : State) : Host.Outcome State Fault Refusal :=
  onInstrument i s (trigger v)

/-- The byte MORPH computes for field `f`: a blend of presets k and k + 1 (R151). -/
def morphByte (c : Config) (k : Instrument) (v : U8) (f : Fin 5) : U8 :=
  mix8 (((c.preset.get k.index).get (morphPair v).castSucc).get f)
    (((c.preset.get k.index).get (morphPair v).succ).get f) (morphWeight v)

/-- "for f in 0..4": one field of MORPH (R151). -/
def morphField (v : U8) (k : Instrument) (s : State) (f : Fin 5) : State :=
  s.writePatch (flatOffset k f.castSucc) (morphByte s.cfg k v f)

/-- The effect of MORPH on a legal instrument: fields 0..4, `level` not among them (R151). -/
def morph (v : U8) (k : Instrument) (s : State) : State :=
  [0, 1, 2, 3, 4].foldl (morphField v k) s

/-- MORPH i, v (R151). -/
def execMorph (i : BitVec 2) (v : U8) (s : State) : Host.Outcome State Fault Refusal :=
  onInstrument i s (morph v)

/-- SETCC cc, v: write one patch byte for 16 <= cc <= 30; any other number is silently ignored (R152, R252). -/
def execSetcc (cc v : U8) (s : State) : Host.Outcome State Fault Refusal :=
  match ccEntry cc with
  | some n => .next (s.writePatch (s.cfg.ccMap.get n) (ccValue v))
  | none => .next s

/-- SETBW b (R153). -/
def execSetbw (b : U8) (s : State) : Host.Outcome State Fault Refusal :=
  .next { s with sampleRate := decimationOf b }

/-- SETBAL m: the three `level` bytes (R154). -/
def execSetbal (m : U8) (s : State) : Host.Outcome State Fault Refusal :=
  .next (((s.setField .bd .level (balanceBass m)).setField .sd .level (balanceSnare m)).setField .hh .level (balanceHihat m))

end Sys2Proof.Machine
end

