-- ==== Sys2Proof/Machine/Query.lean ====
section
/-! DEFINITION. NOP and the idle-time query IDLE (41_patch_control.md rules R155 and R156). -/

namespace Sys2Proof.Machine

/-- NOP: no state changes, nothing pushed, no response (R156). -/
def execNop (s : State) : Host.Outcome State Fault Refusal := .next s

/-- IDLE: answer the time since the last trigger; no state changes (R155). -/
def execIdle (s : State) : Host.Outcome State Fault Refusal :=
  .next (s.respond (elapsed s.inputs.nowMs s.lastEventTime))

end Sys2Proof.Machine
end

