-- ==== Sys2Proof/Machine/Modulation.lean ====
section
/-! DEFINITION. The modulation engine UPDMOD (42_modulation.md): run by RENDER once per block, no opcode (R99). -/

namespace Sys2Proof.Machine

/-- Step 1: advance the amplitude envelope of `k`; maybe set `playing` (R181). -/
def ampEnvelopeStep (k : Instrument) (s : State) : State :=
  let d := s.voice k
  { s.setVoice k { d with
      ampEnvPhase := envNextPhase d.ampEnvPhase d.ampEnvIncrement
      ampEnvIncrement := envNextIncrement d.ampEnvPhase d.ampEnvIncrement } with
    playing := playingAfterAdvance s.playing d.ampEnvPhase d.ampEnvIncrement }

/-- Step 2: the amplitude level, from the phase step 1 wrote (R182). -/
def ampLevelStep (k : Instrument) (s : State) : State :=
  let d := s.voice k
  s.setVoice k { d with ampLevel := mulhi8 (interp8 s.cfg.envCurve d.ampEnvPhase) d.level }

/-- Step 3, the envelope: the pitch envelopes of the bass and snare drums advance; the hi-hat's pair is untouched (R184). -/
def pitchEnvelopeStep (k : Instrument) (s : State) : State :=
  let d := s.voice k
  match k with
  | .hh => s
  | _ => s.setVoice k { d with
      pitchEnvPhase := envNextPhase d.pitchEnvPhase d.pitchEnvIncrement
      pitchEnvIncrement := envNextIncrement d.pitchEnvPhase d.pitchEnvIncrement }

/-- Step 3, first part: the base pitch `patch.pitch << 8`, plus the bass drum's jitter (R183). -/
def basePitch (k : Instrument) (s : State) : Nat :=
  256 * (s.field k .pitch).toNat +
    match k with
    | .bd => (mulhi8 s.inputs.rnd (s.field .bd .crunchiness)).toNat
    | _ => 0

/-- Step 3, second part: what the pitch envelope adds, for the bass and snare drums, at the phase just written (R184). -/
def pitchModulation (k : Instrument) (s : State) : Nat :=
  match k with
  | .hh => 0
  | _ => (s.field k .pitchMod).toNat * (interp8 s.cfg.envCurve (s.voice k).pitchEnvPhase).toNat

/-- The 16-bit temporary `pitch` (R183, R184): both sums wrap. -/
def pitchOf (k : Instrument) (s : State) : U16 := BitVec.ofNat 16 (basePitch k s + pitchModulation k s)

/-- Step 4: pitch to phase increment (R185). -/
def oscillatorIncrement (k : Instrument) (s : State) : U16 := interp16 s.cfg.phaseInc (pitchOf k s)

/-- `floor(3*inc/2)` on 16 bits: `(inc + (inc >> 1)) mod 65536` (R187). -/
def threeHalves (inc : U16) : U16 := BitVec.ofNat 16 (inc.toNat + inc.toNat / 2)

/-- Steps 4 and 5: store the increment; for the hi-hat, the second operator gets it and the primary runs at 3/2 of it
(R185, R187). -/
def incrementStep (k : Instrument) (s : State) : State :=
  let inc := oscillatorIncrement k s
  match k with
  | .hh => s.setVoice .hh { s.voice .hh with pitchEnvIncrement := inc, phaseIncrement := threeHalves inc }
  | _ => s.setVoice k { s.voice k with phaseIncrement := inc }

/-- Steps 1 to 5 of one instrument (R180). -/
def updateVoice (s : State) (k : Instrument) : State :=
  incrementStep k (pitchEnvelopeStep k (ampLevelStep k (ampEnvelopeStep k s)))

/-- Step 6, snare: the level split into noise and tone by `crunchiness`, both from the same A (R188). -/
def snareSplit (s : State) : State :=
  let d := s.voice .sd
  let c := (s.field .sd .crunchiness).toNat
  s.setVoice .sd { d with
    ampLevelNoise := div255 (d.ampLevel.toNat * c)
    ampLevel := div255 (d.ampLevel.toNat * (255 - c)) }

/-- Step 6, hi-hat: the noise level is the crunchiness (R189). -/
def hihatNoiseLevel (s : State) : State :=
  s.setVoice .hh { s.voice .hh with ampLevelNoise := s.field .hh .crunchiness }

/-- UPDMOD (R180): `playing` cleared, instruments 0, 1, 2 in this order, then step 6. The byte `rnd` is on the input port. -/
def updmod (s : State) : State :=
  hihatNoiseLevel (snareSplit
    ([Instrument.bd, Instrument.sd, Instrument.hh].foldl updateVoice { s with playing := playingAtUpdmodStart }))

end Sys2Proof.Machine
end

