-- ==== Sys2Proof/Machine/Render.lean ====
section
/-! DEFINITION. The renderer: SAMPLE (no opcode, R99), RENDER and SILENCE (43_render.md). -/

namespace Sys2Proof.Machine

/-- SAMPLE part 1: the noise step (R212). -/
def stepNoise (s : State) : State := { s with noise := noiseStep s.noise }

/-- A voice's primary oscillator advances by its increment (R213). -/
def DrumState.advancePhase (d : DrumState) : DrumState := { d with phase := acc16 d.phase d.phaseIncrement }

/-- The hi-hat's second operator advances by its increment (R29, R213). -/
def DrumState.advanceSecondOperator (d : DrumState) : DrumState :=
  { d with pitchEnvPhase := acc16 d.pitchEnvPhase d.pitchEnvIncrement }

/-- SAMPLE part 2: the three primary phases and the hi-hat's second operator advance (R213). -/
def advancePhases (s : State) : State :=
  { s with voices :=
    { bd := s.voices.bd.advancePhase
      sd := s.voices.sd.advancePhase
      hh := s.voices.hh.advancePhase.advanceSecondOperator } }

/-- SAMPLE part 3: the bass drum's contribution (R215). -/
def bassContribution (s : State) : Int :=
  smul8 (ctr (interp8 s.cfg.wavSine s.voices.bd.phase)) s.voices.bd.ampLevel

/-- SAMPLE part 4: the snare's tone, a direct lookup (R216). -/
def snareTone (s : State) : Int :=
  smul8 (ctr (lookupByte s.cfg.wavSine (tableIndex s.voices.sd.phase))) s.voices.sd.ampLevel

/-- SAMPLE part 4: the snare's noise (R216). -/
def snareNoise (s : State) : Int := smul8 (ctr s.noise) s.voices.sd.ampLevelNoise

/-- SAMPLE part 5a: the hi-hat's "inverted" flag of two phases, `(P[3] | (P[2] ^ P[7])) | (E[3] ^ E[5])` on their high bytes
(R217). -/
def hihatInverted (primary secondary : U16) : Bool :=
  let P := hiByte primary
  let E := hiByte secondary
  (P.getLsbD 3 || (P.getLsbD 2 ^^ P.getLsbD 7)) || (E.getLsbD 3 ^^ E.getLsbD 5)

/-- The magnitude of the hi-hat's noise-dependent level: `(noise * amp_level_noise) >> 9` (R218). -/
def hihatNoiseMagnitude (noise ampLevelNoise : U8) : Int := (noise.toNat * ampLevelNoise.toNat / 512 : Nat)

/-- SAMPLE part 5b: the hi-hat's raw level (R218). -/
def hihatRaw (c : Config) (inv : Bool) (noise ampLevelNoise : U8) : Int :=
  if noise.getLsbD 0 then
    if inv then hihatNoiseMagnitude noise ampLevelNoise else -hihatNoiseMagnitude noise ampLevelNoise
  else
    if inv then c.hhNeg.toInt else c.hhPos.toInt

/-- SAMPLE part 5c: the hi-hat's contribution (R219). -/
def hihatContribution (s : State) : Int :=
  smul8 (hihatRaw s.cfg (hihatInverted s.voices.hh.phase s.voices.hh.pitchEnvPhase) s.noise s.voices.hh.ampLevelNoise)
    s.voices.hh.ampLevel

/-- The four contributions on the centred bias 128, exact (R220). -/
def mixOf (bd sdt sdn hh : Int) : Int := 128 + bd + sdt + sdn + hh

/-- SAMPLE part 6: mix and saturate (R220). -/
def mixedSample (s : State) : U8 :=
  sat8 (mixOf (bassContribution s) (snareTone s) (snareNoise s) (hihatContribution s))

/-- The decimation counter, stepped, exceeds the decimation factor: the held sample updates in this period (R221). -/
def decimationFires (counter rate : U8) : Bool := decide (rate.toNat < (counter.toNat + 1) % 256)

/-- SAMPLE part 7, the decimation counter and the held sample: the counter steps, and when it exceeds `sample_rate` the held
sample takes the mixed value and the counter restarts (R221). -/
def decimate (out : U8) (s : State) : State :=
  { s with
    sample := if decimationFires s.sampleCounter s.sampleRate then out else s.sample
    sampleCounter := if decimationFires s.sampleCounter s.sampleRate then 0 else s.sampleCounter + 1 }

/-- Push the held sample (R221). -/
def pushHeld (s : State) : State := s.push s.sample

/-- SAMPLE parts 1 and 2: the noise and the phases the rest of the period reads (R211). -/
def startPeriod (s : State) : State := advancePhases (stepNoise s)

/-- SAMPLE: one output sample period, its parts in the order of R211. -/
def samplePeriod (s : State) : State :=
  pushHeld (decimate (mixedSample (startPeriod s)) (startPeriod s))

/-- "repeat n times: SAMPLE()" (R210). -/
def samplePeriods : Nat → State → State
  | 0, s => s
  | n + 1, s => samplePeriods n (samplePeriod s)

/-- One whole block: UPDMOD, BLOCK_SIZE samples, then the fade counter to its maximum (R210, R222). -/
def renderBlock (s : State) : State :=
  { samplePeriods s.cfg.blockSize (updmod s) with fadeCounter := 255 }

/-- The sink has room for a block (R210). -/
def State.roomForBlock (s : State) : Bool := decide (s.cfg.blockSize ≤ s.inputs.writable)

/-- RENDER: one block when there is room for one, else nothing (R210). -/
def execRender (s : State) : Host.Outcome State Fault Refusal :=
  withSinkReport s (fun s => if s.roomForBlock then renderBlock s else s)

/-- One LSB toward SILENCE_TARGET (R224). -/
def fadeToward (target sample : U8) : U8 :=
  if sample.toNat > target.toNat then sample - 1
  else if sample.toNat < target.toNat then sample + 1
  else sample

/-- SILENCE, its registers: the held sample steps when the fade counter reads 0, and the counter steps down (R224). -/
def fade (s : State) : State :=
  { s with
    sample := if s.fadeCounter = 0#8 then fadeToward s.cfg.silenceTarget s.sample else s.sample
    fadeCounter := s.fadeCounter - 1 }

/-- The held sample fills the reported room (R224). -/
def fillSink (s : State) : State := s.pushMany s.inputs.writable s.sample

/-- SILENCE (R224). -/
def execSilence (s : State) : Host.Outcome State Fault Refusal :=
  withSinkReport s (fun s => fillSink (fade s))

end Sys2Proof.Machine
end

