-- ==== Sys2Proof/Machine/Dispatch.lean ====
section
/-! DEFINITION. One arm per command of the opcode map (30_encoding.md rule R93). -/

namespace Sys2Proof.Machine

def exec (i : Instr) (s : State) : Host.Outcome State Fault Refusal :=
  match i with
  | .nop => Sys2Proof.Machine.execNop s
  | .trig k v => Sys2Proof.Machine.execTrig k v s
  | .setcc cc v => Sys2Proof.Machine.execSetcc cc v s
  | .morph k v => Sys2Proof.Machine.execMorph k v s
  | .setbw b => Sys2Proof.Machine.execSetbw b s
  | .setbal m => Sys2Proof.Machine.execSetbal m s
  | .render => Sys2Proof.Machine.execRender s
  | .silence => Sys2Proof.Machine.execSilence s
  | .idle => Sys2Proof.Machine.execIdle s

end Sys2Proof.Machine
end

