-- ==== Sys2Proof/Machine/Port.lean ====
section
/-! DEFINITION. The command port (30_encoding.md rule R91): what the block does with the next thing that arrives. -/

namespace Sys2Proof.Machine

/-- A word on the command port: decoded (R93), and executed to completion before the next is taken (R75); a word that is no
command is refused by name (R94). -/
def runCommand (cmd : CmdWord) (s : State) : Host.Outcome State Fault Refusal :=
  match decode cmd with
  | .ok i => exec i s
  | .error why => .refused (refusalOf why)

/-- The next arrival (R40, R75, R76). With none the block waits: "nothing changes between commands" (R281, R297). -/
def runArrival (s : State) : Host.Outcome State Fault Refusal :=
  match s.arrivals with
  | [] => .next s
  | .command cmd nowMs rnd writable :: rest => runCommand cmd (s.accept nowMs rnd writable rest)
  | .drain :: rest => s.drain rest
  | .rst :: rest => .next (s.hardReset rest)

/-- A configuration that fails a condition of R8 is refused (V6 of R251). -/
def stepConfigured (s : State) : Host.Outcome State Fault Refusal :=
  if s.cfg.wf then runArrival s else .refused .illFormedConfiguration

/-- A command placed at the head of the arrivals, with the clock and the random byte that stand on the ports and the sink's
own report of its room. -/
def State.offer (s : State) (cmd : CmdWord) : State :=
  { s with arrivals := .command cmd s.inputs.nowMs s.inputs.rnd none :: s.arrivals }

end Sys2Proof.Machine
end

