-- ==== Sys2Proof/Machine/Step.lean ====
section
/-! DEFINITION. One step of the machine. -/

namespace Sys2Proof.Machine

/-- One step: one command executed to completion, one DRAIN, one assertion of `rst`, or waiting (R75, R76, R297). -/
def step (s : State) : Host.Outcome State Fault Refusal := stepConfigured s

/-- `s` with the command of the bits `w` next on the command port. There is no program counter and no instruction memory
(R40): the port is where the block takes its next command from. -/
def State.withFetchWord (s : State) (nbits w : Nat) : State := s.offer (BitVec.ofNat 24 (w % 2 ^ nbits))

end Sys2Proof.Machine
end

