-- ==== Sys2Proof/Machine/Scheduler.lean ====
section
/-! DEFINITION. The pseudo-commands INIT, RENDERALL and SERVICE (30_encoding.md rule R97; 70_reset_and_hazards.md rule R285)
and the reference scheduler policy (70_reset_and_hazards.md rule R293). They are the environment's sequences of commands, not
commands of the block. -/

namespace Sys2Proof.Machine

/-- Commands one after another, stopping at the first refusal (R75). -/
def execAll : List Instr → State → Host.Outcome State Fault Refusal
  | [], s => .next s
  | i :: rest, s =>
    match exec i s with
    | .next t => execAll rest t
    | .fault r => .fault r
    | .refused r => .refused r

/-- `INIT b, m, v0, v1, v2` (R97, R285). -/
def initCommands (b m v0 v1 v2 : U8) : List Instr :=
  [.setbw b, .setbal m, .morph 0 v0, .morph 1 v1, .morph 2 v2]

/-- The inputs of a scheduler command: the random byte of this draw and the sink's own report (R9, R70). -/
def State.scheduled (s : State) (rnd : U8) : State := s.accept s.inputs.nowMs rnd none s.arrivals

/-- RENDERALL within a number of repetitions: RENDER "repeated as long as `writable >= BLOCK_SIZE` holds before each
repetition", one random byte each (R97). -/
def renderAllWithin : Nat → (Nat → U8) → State → Host.Outcome State Fault Refusal
  | 0, _, s => .next s
  | n + 1, rnds, s =>
    if s.cfg.blockSize ≤ s.freeCapacity then
      match exec .render (s.scheduled (rnds 0)) with
      | .next t => renderAllWithin n (fun j => rnds (j + 1)) t
      | .fault r => .fault r
      | .refused r => .refused r
    else .next s

/-- RENDERALL (R97). A block takes at least one place of the sink, so the free capacity bounds the repetitions. -/
def renderAll (rnds : Nat → U8) (s : State) : Host.Outcome State Fault Refusal :=
  renderAllWithin s.freeCapacity rnds s

/-- SERVICE by its expansion: RENDERALL "when `playing` is 1 at its start", SILENCE otherwise (R97). It tests `playing` once;
the policy that tests it before every block is `servicePolicy` (DEDUCED, assumption 20). -/
def service (rnds : Nat → U8) (s : State) : Host.Outcome State Fault Refusal :=
  if s.playing then renderAll rnds s
  else if 0 < s.freeCapacity then exec .silence (s.scheduled (rnds 0))
  else .next s

/-- What the reference policy issues next: "RENDER while playing and room, else SILENCE" (R293; 92_eei_decisions.md D35);
nothing while a playing block has no room, or once the sink is full. -/
def State.policyCommand (s : State) : Option Instr :=
  if s.playing then (if s.cfg.blockSize ≤ s.freeCapacity then some .render else none)
  else if 0 < s.freeCapacity then some .silence
  else none

/-- The reference policy within a number of commands: what `policyCommand` says, asked anew before each command (R293). -/
def servicePolicyWithin : Nat → (Nat → U8) → State → Host.Outcome State Fault Refusal
  | 0, _, s => .next s
  | n + 1, rnds, s =>
    match s.policyCommand with
    | none => .next s
    | some i =>
      match exec i (s.scheduled (rnds 0)) with
      | .next t => servicePolicyWithin n (fun j => rnds (j + 1)) t
      | .fault r => .fault r
      | .refused r => .refused r

/-- The reference policy until it has nothing to issue (R293): blocks "until the UPDMOD in which the last amplitude envelope
finishes", whose block "is the last", then SILENCE. Each command it issues takes at least one place of the sink. -/
def servicePolicy (rnds : Nat → U8) (s : State) : Host.Outcome State Fault Refusal :=
  servicePolicyWithin s.freeCapacity rnds s

end Sys2Proof.Machine
end

