-- ==== Sys2Proof/Machine/Spaces.lean ====
section
/-! DEFINITION. The address spaces seen through `MemRead` and `MemWrite` (00_scope.md rule R11; 20_memory.md rules R60, R61
and R67), and the Resource Provider's four calls with its table ids (20_memory.md rules R63 and R80). The sink, a stream, is
`State.push` and `State.freeCapacity`. -/

namespace Sys2Proof.Machine

/-- The spaces addressed by element index (R60). -/
inductive Space where
  | patch
  | wavSine
  | envCurve
  | phaseInc
  | envInc
  | preset
  | ccMap
deriving DecidableEq, Repr

/-- How many elements a space has (R60). -/
def Space.elements : Space → Nat
  | .patch => 18
  | .wavSine => 257
  | .envCurve => 257
  | .phaseInc => 257
  | .envInc => 256
  | .preset => 75
  | .ccMap => 15

/-- The size in bytes of one element (R61, R68); a CC_MAP entry is a natural 0..17, which a byte holds. -/
def Space.elementBytes : Space → Nat
  | .phaseInc => 2
  | .envInc => 2
  | _ => 1

/-- `MemRead(space, index, n)`, `n` the element's size: the element as a number, `none` for an index outside the space,
which no rule of the block forms (R67). PRESET's elements are counted instrument by instrument, preset by preset. -/
def State.memRead (s : State) (space : Space) (index : Nat) : Option Nat :=
  match space with
  | .patch => if index < 18 then some (s.patch.read index).toNat else none
  | .wavSine => s.cfg.wavSine.entries[index]?.map BitVec.toNat
  | .envCurve => s.cfg.envCurve.entries[index]?.map BitVec.toNat
  | .phaseInc => s.cfg.phaseInc.entries[index]?.map BitVec.toNat
  | .envInc => s.cfg.envInc.entries[index]?.map BitVec.toNat
  | .preset =>
    (s.cfg.preset.entries[index / 25]?.bind (fun presets => presets.entries[index / 5 % 5]?)).bind (fun fields =>
      fields.entries[index % 5]?.map BitVec.toNat)
  | .ccMap => s.cfg.ccMap.entries[index]?.map Fin.val

/-- `MemWrite(space, index, 1, v)`: only PATCH is writable (R60). -/
def State.memWrite (s : State) (space : Space) (index : Nat) (v : U8) : Option State :=
  match space with
  | .patch => if h : index < 18 then some (s.writePatch ⟨index, h⟩ v) else none
  | _ => none

/-- The four signal tables of the Resource Provider (R63). -/
inductive TableId where
  | envCurve
  | wavSine
  | phaseInc
  | envInc
deriving DecidableEq, Repr

/-- The ids the spec numbers the tables with (R63). -/
def TableId.number : TableId → Nat
  | .envCurve => 0
  | .wavSine => 1
  | .phaseInc => 2
  | .envInc => 3

/-- `lookup_byte(table_id, index)` on a u8 table (R80). -/
def providerLookupByte (c : Config) : TableId → Nat → Option U8
  | .envCurve, i => c.envCurve.entries[i]?
  | .wavSine, i => c.wavSine.entries[i]?
  | _, _ => none

/-- `lookup_word(table_id, index)` on a u16 table (R80). -/
def providerLookupWord (c : Config) : TableId → Nat → Option U16
  | .phaseInc, i => c.phaseInc.entries[i]?
  | .envInc, i => c.envInc.entries[i]?
  | _, _ => none

/-- `interpolated_lookup(table_id, phase)` is `interp8` (R80). -/
def interpolatedLookup (c : Config) : TableId → U16 → Option U8
  | .envCurve, p => some (interp8 c.envCurve p)
  | .wavSine, p => some (interp8 c.wavSine p)
  | _, _ => none

/-- `interpolate_increasing(table_id, x)` is `interp16` on the pitch table (R80). -/
def interpolateIncreasing (c : Config) : TableId → U16 → Option U16
  | .phaseInc, x => some (interp16 c.phaseInc x)
  | _, _ => none

end Sys2Proof.Machine
end

