-- ==== Sys2Proof/Safety.lean ====
section
/-! DEFINITION. What the claims call a good state and a well-behaved environment. -/

namespace Sys2Proof.Machine

/-- What every reachable state satisfies: the PATCH space in its canonical form; no sample pushed beyond the sink's capacity
(20_memory.md rules R70 and R71); the decimation factor and counter in the range of R24 and R33; the captured and computed
levels in the range of R150 and R182. -/
structure State.Good (s : State) : Prop where
  patch : s.patch.wf = true
  sink : s.fifo.length ≤ s.cfg.outCapacity
  sampleRate : s.sampleRate.toNat ≤ 31
  sampleCounter : s.sampleCounter.toNat ≤ 31
  level : ∀ k, (s.voice k).level.toNat ≤ 254
  ampLevel : ∀ k, (s.voice k).ampLevel.toNat ≤ 253

/-- Every byte of the PATCH space reads as before: the frame of a command that stores nothing. -/
def State.SamePatch (s t : State) : Prop := ∀ o : PatchOffset, t.patchByte o = s.patchByte o

/-- Every voice register is as before. -/
def State.SameVoices (s t : State) : Prop := ∀ k : Instrument, t.voice k = s.voice k

/-- The renderer's registers `sample`, `sample_counter`, `noise` and `fade_counter` are as before. -/
def State.SameRenderer (s t : State) : Prop :=
  t.sample = s.sample ∧ t.sampleCounter = s.sampleCounter ∧ t.noise = s.noise ∧ t.fadeCounter = s.fadeCounter

/-- The configuration, what the environment holds at the input ports, and what it does next are as before. -/
def State.SameEnvironment (s t : State) : Prop :=
  t.cfg = s.cfg ∧ t.inputs = s.inputs ∧ t.arrivals = s.arrivals

/-- Nothing pushed, nothing drained, nothing answered. -/
def State.SameOutput (s t : State) : Prop :=
  t.fifo = s.fifo ∧ t.drained = s.drained ∧ t.responses = s.responses

/-- Blocks rendered one after another, each with its own random byte. -/
def renderBlocks (rnds : List U8) (s : State) : State :=
  rnds.foldl (fun u r => renderBlock { u with inputs := { u.inputs with rnd := r } }) s

/-- The first `n` blocks a scheduler renders, one random byte each, the sink reporting its own room (R97, R293). -/
def scheduledBlocks : Nat → (Nat → U8) → State → State
  | 0, _, s => s
  | n + 1, rnds, s => scheduledBlocks n (fun j => rnds (j + 1)) (renderBlock (s.scheduled (rnds 0)))

/-- An amplitude envelope is finished: "its increment is 0 and its phase is 0xFFFF" (R12, R30). -/
def DrumState.ampFinished (d : DrumState) : Prop := d.ampEnvPhase = 0xFFFF#16 ∧ d.ampEnvIncrement = 0#16

/-- The next arrival breaks no contract of R251 in the state it finds: a command word of the opcode map whose report, if the
environment makes one, is within the free capacity (R292); a DRAIN of a non-empty sink (R70); `rst`; or nothing. -/
def State.nextArrivalContractual (s : State) : Bool :=
  match s.arrivals with
  | [] => true
  | .command cmd _ _ writable :: _ => (decode cmd).toOption.isSome && decide (writable.getD 0 ≤ s.freeCapacity)
  | .drain :: _ => !s.fifo.isEmpty
  | .rst :: _ => true

/-- The environment keeps its contracts for `n` steps: each arrival in the state it finds. Of a step that is no step of the
hardware it asks nothing more. -/
def State.keepsContracts : Nat → State → Bool
  | 0, _ => true
  | n + 1, s =>
    s.nextArrivalContractual &&
      match step s with
      | .next t => t.keepsContracts n
      | .fault _ => true
      | .refused _ => true

/-- `n` steps end in a state: none of them is refused. -/
def State.runsTo (s : State) (n : Nat) (t : State) : Prop := Host.Core.run Sys2Proof.core n s = .next t

end Sys2Proof.Machine
end

