-- ==== Sys2Proof/Certificates/Slice0/Obligations.lean ====
section
/-! DEFINITION. The statements about this model. A premise `s.patch.wf = true` is the invariant `State.Good` (assumption 7):
every reachable state satisfies it. The input ports `s.inputs` hold the free inputs of the command that runs (assumption 3),
so a statement for every `s` holds for every value of `now_ms`, `rnd` and `writable`. -/

open Sys2Proof Sys2Proof.Machine

/-! ### Encoding (30_encoding.md) -/

/-- Every well-formed command is what the decoder reads from its encoding: no operand bit is lost (R90, R92, R93). -/
def Obligations.DecodeOfEncode : Prop :=
  ∀ i : Instr, i.wf = true → decode (encode i) = .ok i

/-- A word that decodes is the encoding of its command, and that command is well formed: every one of the 24 bits is read,
the unused fields as zeros (R92). -/
def Obligations.EncodeOfDecode : Prop :=
  ∀ (w : CmdWord) (i : Instr), decode w = .ok i → encode i = w ∧ i.wf = true

/-- R93: a word selects a row exactly when the decoder gives that row's command; a word that selects no row is rejected. -/
def Obligations.DecoderFollowsOpcodeMap : Prop :=
  ∀ w : CmdWord,
    (∀ r ∈ opcodeMap, r.selects w = true ↔ ∃ i, decode w = .ok i ∧ i.mnemonic = r.mnemonic) ∧
    ((∀ r ∈ opcodeMap, r.selects w = false) ↔ ∃ why, decode w = .error why)

/-- R93: "The rows are disjoint: no word selects two rows." -/
def Obligations.OpcodeRowsDisjoint : Prop :=
  ∀ (w : CmdWord) (r r' : OpcodeRow), r ∈ opcodeMap → r' ∈ opcodeMap → r.selects w = true → r'.selects w = true → r = r'

/-- R90: on a byte stream a command is the three bytes `op`, `a`, `b`, and decoding takes exactly those. -/
def Obligations.ByteStreamRoundTrip : Prop :=
  ∀ (i : Instr) (rest : List U8), i.wf = true →
    decodeBytes (encodeBytes i ++ rest) = .ok (i, rest) ∧
    encodeBytes i = [BitVec.ofNat 8 ((encode i).toNat / 65536), BitVec.ofNat 8 ((encode i).toNat / 256),
      BitVec.ofNat 8 (encode i).toNat]

/-- A few words of 95_test_vectors.md section 4 (Decoder) decode as listed there. -/
def Obligations.ListedWordsDecode : Prop :=
  decode 0x000000#24 = .ok .nop ∧ decode 0x0102FF#24 = .ok (.trig 2#2 255#8) ∧
  decode 0x021E7F#24 = .ok (.setcc 30#8 127#8) ∧ decode 0x030160#24 = .ok (.morph 1#2 0x60#8) ∧
  decode 0x0400E7#24 = .ok (.setbw 231#8) ∧ decode 0x0500C8#24 = .ok (.setbal 200#8) ∧
  decode 0x060000#24 = .ok .render ∧ decode 0x070000#24 = .ok .silence ∧ decode 0x080000#24 = .ok .idle ∧
  decode 0x010300#24 = .error .illegalInstrument ∧ decode 0x010400#24 = .error .reservedInstrument ∧
  decode 0x040100#24 = .error .unusedFieldNotZero ∧ decode 0x090000#24 = .error .reservedOpcode

/-! ### The step (20_memory.md, 60_exceptions.md, 70_reset_and_hazards.md) -/

/-- A step runs the decoded command: when the next arrival is a word that decodes to `i`, the step is `exec i` at the state
whose input ports hold that command's inputs and whose arrivals are the later ones. The ports and the arrivals are the
model's (assumptions 2 and 3); that a command is one whole transition is R75. -/
def Obligations.StepRunsDecodedCommand : Prop :=
  ∀ (s : State) (cmd : CmdWord) (now : U32) (r : U8) (w : Option Nat) (rest : List Event) (i : Instr),
    s.cfg.wf = true → s.arrivals = .command cmd now r w :: rest → decode cmd = .ok i →
    step s = exec i { s with
      inputs := ⟨now, r, w.getD (s.cfg.outCapacity - s.fifo.length)⟩
      arrivals := rest }

/-- R94: a word that selects no row of the opcode map is refused, instrument 3 of TRIG and MORPH under its own name. -/
def Obligations.StepRefusesUnlistedWords : Prop :=
  ∀ (s : State) (cmd : CmdWord) (now : U32) (r : U8) (w : Option Nat) (rest : List Event),
    s.cfg.wf = true → s.arrivals = .command cmd now r w :: rest → (∀ row ∈ opcodeMap, row.selects cmd = false) →
    if (opField cmd = 1#8 ∨ opField cmd = 3#8) ∧ aField cmd = 3#8 then step s = .refused .illegalInstrument
    else ∃ why, step s = .refused (.reservedWord why)

/-- R8: a configuration that fails a condition of the table is refused, whatever arrives. -/
def Obligations.StepRefusesIllFormedConfiguration : Prop :=
  ∀ s : State,
    ¬ (1 ≤ s.cfg.blockSize ∧ s.cfg.blockSize ≤ s.cfg.outCapacity ∧
       (∀ i : Fin 256, (s.cfg.wavSine.get i.succ).toNat ≤ (s.cfg.wavSine.get i.castSucc).toNat + 127 ∧
         (s.cfg.wavSine.get i.castSucc).toNat ≤ (s.cfg.wavSine.get i.succ).toNat + 127) ∧
       (∀ i : Fin 256, (s.cfg.phaseInc.get i.castSucc).toNat ≤ (s.cfg.phaseInc.get i.succ).toNat) ∧
       (s.cfg.ccMap.get 0).val ≤ 5 ∧ 1 ≤ s.cfg.hhPos.toInt ∧ s.cfg.hhNeg.toInt ≤ -1) ↔
    step s = .refused .illFormedConfiguration

/-- With nothing arrived the block waits, and nothing changes (R281, R297; the wait step is the model's, assumption 2). -/
def Obligations.StepWaitsForArrivals : Prop :=
  ∀ s : State, s.cfg.wf = true → s.arrivals = [] → step s = .next s

/-- DRAIN removes the oldest sample and nothing else; what was pushed stays as it was; on an empty sink there is no such
step (R70; the refusal is the model's, assumption 5). -/
def Obligations.DrainRemovesOldestSample : Prop :=
  ∀ (s : State) (rest : List Event), s.cfg.wf = true → s.arrivals = .drain :: rest →
    (s.fifo = [] → step s = .refused .drainOfEmptySink) ∧
    (∀ v later, s.fifo = v :: later →
      ∃ t, step s = .next t ∧ t = { s with fifo := later, drained := s.drained ++ [v], arrivals := rest } ∧
        t.pushed = s.pushed)

/-- R280: the assertion of `rst` puts every register to its reset value, pushes nothing and sends no response. The sink and
the configuration stay (R281, R286). That `rst` is an arrival between commands, after which the later arrivals and the input
ports stand as they did, is the model's (assumptions 3 and 6; 6 is DEDUCED and unsafe). -/
def Obligations.HardResetRestoresRegisters : Prop :=
  ∀ (s : State) (rest : List Event), s.cfg.wf = true → s.arrivals = .rst :: rest →
    ∃ t, step s = .next t ∧ (∀ o : PatchOffset, t.patchByte o = 0) ∧ (∀ k, t.voice k = DrumState.zero) ∧
      t.sampleRate = 0 ∧ t.sample = 128 ∧ t.sampleCounter = 0 ∧ t.noise = 0 ∧ t.fadeCounter = 255 ∧
      t.playing = false ∧ t.lastEventTime = 0 ∧ s.SameOutput t ∧ t.cfg = s.cfg ∧ t.inputs = s.inputs ∧ t.arrivals = rest

/-- The reset values of R42 for every configuration, with the empty sink and `writable` = OUT_CAPACITY of R281. The model's
choices among the values: `State.reset` is this state at REFCFG (assumption 1), the arrivals are empty (assumption 2), the
clock and random ports hold 0 (assumption 3), nothing is drained or answered yet (assumptions 5 and 11). -/
def Obligations.ResetValues : Prop :=
  State.reset = State.resetOf Config.refcfg ∧
  ∀ c : Config, let s := State.resetOf c
    s.cfg = c ∧ (∀ o : PatchOffset, s.patchByte o = 0) ∧
    (∀ k, (s.voice k).phase = 0 ∧ (s.voice k).pitchEnvPhase = 0 ∧ (s.voice k).ampEnvPhase = 0 ∧
      (s.voice k).pitchEnvIncrement = 0 ∧ (s.voice k).ampEnvIncrement = 0 ∧ (s.voice k).phaseIncrement = 0 ∧
      (s.voice k).level = 0 ∧ (s.voice k).ampLevel = 0 ∧ (s.voice k).ampLevelNoise = 0) ∧
    s.sampleRate = 0 ∧ s.sample = 128 ∧ s.sampleCounter = 0 ∧ s.noise = 0 ∧ s.fadeCounter = 255 ∧ s.playing = false ∧
    s.lastEventTime = 0 ∧ s.fifo = [] ∧ s.freeCapacity = c.outCapacity ∧
    s.inputs = ⟨0, 0, c.outCapacity⟩ ∧ s.drained = [] ∧ s.responses = [] ∧ s.arrivals = []

/-- R42, last paragraph: the first RENDER after reset with room for a block pushes BLOCK_SIZE samples of value 128, finishes
the five envelope pairs and leaves `playing` false, for every well-formed configuration and every value of the free inputs
(R9): every `rnd`, every clock, every report within the capacity. -/
def Obligations.FirstRenderAfterResetIsCentred : Prop :=
  ∀ (c : Config) (inputs : Inputs), c.wf = true → c.blockSize ≤ inputs.writable → inputs.writable ≤ c.outCapacity →
    ∃ t, exec .render { State.resetOf c with inputs := inputs } = .next t ∧
      t.fifo = List.replicate c.blockSize 128#8 ∧ t.playing = false ∧
      (∀ k, (t.voice k).ampFinished ∧ (t.voice k).ampLevel = 0) ∧
      (∀ k, k ≠ .hh → (t.voice k).pitchEnvPhase = 0xFFFF#16 ∧ (t.voice k).pitchEnvIncrement = 0)

/-- R250: every command completes on legal operands, the sink's report being honest (R292). -/
def Obligations.LegalCommandsComplete : Prop :=
  ∀ (i : Instr) (s : State), i.wf = true → s.inputs.writable ≤ s.freeCapacity → ∃ t, exec i s = .next t

/-- The contract violations a command can carry are refused (R251): V1, instrument 3 in TRIG or MORPH (R94), and V3, a report
larger than the sink's free capacity. The model's readings: the meaning itself refuses operand 3, beside the decoder
(assumption 9, DEDUCED); the over-report is refused at RENDER and SILENCE, which sample it (assumption 4, DEDUCED). -/
def Obligations.ContractViolationsRefused : Prop :=
  ∀ (v : U8) (s : State),
    exec (.trig 3#2 v) s = .refused .illegalInstrument ∧ exec (.morph 3#2 v) s = .refused .illegalInstrument ∧
    (s.freeCapacity < s.inputs.writable →
      exec .render s = .refused .sinkOverReported ∧ exec .silence s = .refused .sinkOverReported)

/-! ### Patch control and queries (41_patch_control.md) -/

/-- R150: the word of TRIG; TRIG on instrument `k` completes, with its result and its frame. -/
def Obligations.TrigLatchesNote : Prop :=
  ∀ (k : Instrument) (i : BitVec 2) (v : U8) (s : State), i.toNat = k.index.val →
    (encode (.trig i v)).toNat = 0x010000 + 256 * i.toNat + v.toNat ∧
    ∃ t, exec (.trig i v) s = .next t ∧
      t.lastEventTime = s.inputs.nowMs ∧ t.playing = true ∧
      (t.voice k).phase = 0 ∧ (t.voice k).pitchEnvPhase = 0 ∧ (t.voice k).ampEnvPhase = 0 ∧
      (t.voice k).pitchEnvIncrement = s.cfg.envInc.get (s.field k .pitchDecay).toFin ∧
      (t.voice k).ampEnvIncrement = s.cfg.envInc.get (s.field k .ampDecay).toFin ∧
      (t.voice k).level.toNat = v.toNat * (s.field k .level).toNat / 256 ∧
      (t.voice k).phaseIncrement = (s.voice k).phaseIncrement ∧ (t.voice k).ampLevel = (s.voice k).ampLevel ∧
      (t.voice k).ampLevelNoise = (s.voice k).ampLevelNoise ∧
      (∀ j, j ≠ k → t.voice j = s.voice j) ∧
      s.SamePatch t ∧ t.sampleRate = s.sampleRate ∧ s.SameRenderer t ∧ s.SameOutput t ∧ s.SameEnvironment t

/-- R151: the word of MORPH; MORPH on instrument `k` at position 64*pair + pos completes: fields 0..4 are the blend of presets `pair` and
`pair + 1` with weight 4*pos, every other patch byte and all else as before. -/
def Obligations.MorphBlendsPresets : Prop :=
  ∀ (k : Instrument) (i : BitVec 2) (v : U8) (pair : Fin 4) (pos : Fin 64) (s : State),
    i.toNat = k.index.val → v.toNat = 64 * pair.val + pos.val → s.patch.wf = true →
    (encode (.morph i v)).toNat = 0x030000 + 256 * i.toNat + v.toNat ∧
    ∃ t, exec (.morph i v) s = .next t ∧
      (∀ f : Fin 5,
        let p : Int := (((s.cfg.preset.get k.index).get pair.castSucc).get f).toNat
        let q : Int := (((s.cfg.preset.get k.index).get pair.succ).get f).toNat
        ((t.patchByte (flatOffset k f.castSucc)).toNat : Int) = p + (q - p) * (4 * pos.val) / 256) ∧
      (∀ o : PatchOffset, (o.val < 6 * k.index.val ∨ 6 * k.index.val + 5 ≤ o.val) → t.patchByte o = s.patchByte o) ∧
      s.SameVoices t ∧ t.sampleRate = s.sampleRate ∧ t.playing = s.playing ∧ t.lastEventTime = s.lastEventTime ∧
      s.SameRenderer t ∧ s.SameOutput t ∧ s.SameEnvironment t

/-- R151 (a) and (b): positions 0, 64, 128 and 192 reproduce presets 0, 1, 2 and 3 exactly. -/
def Obligations.MorphReproducesPresets : Prop :=
  ∀ (k : Instrument) (i : BitVec 2) (v : U8) (pair : Fin 4) (s : State),
    i.toNat = k.index.val → v.toNat = 64 * pair.val → s.patch.wf = true →
    ∃ t, exec (.morph i v) s = .next t ∧
      ∀ f : Fin 5, t.patchByte (flatOffset k f.castSucc) = ((s.cfg.preset.get k.index).get pair.castSucc).get f

/-- R151 (c): position 255 misses the boundary preset's byte by exactly ceil((p4 - p3)/64) from below when it rises, and by
exactly floor((p3 - p4)/64) from above when it does not. -/
def Obligations.MorphTopPositionError : Prop :=
  ∀ (k : Instrument) (i : BitVec 2) (s : State), i.toNat = k.index.val → s.patch.wf = true →
    ∃ t, exec (.morph i 255#8) s = .next t ∧
      ∀ f : Fin 5,
        let p3 := (((s.cfg.preset.get k.index).get 3).get f).toNat
        let p4 := (((s.cfg.preset.get k.index).get 4).get f).toNat
        let b := (t.patchByte (flatOffset k f.castSucc)).toNat
        if p3 < p4 then b + (p4 - p3 + 63) / 64 = p4 else b = p4 + (p3 - p4) / 64

/-- R152: the word of SETCC; SETCC completes: for controller 16 + n the byte CC_MAP[n] selects becomes twice the 7-bit value
and every other patch byte is as before; outside 16..30 every patch byte is; all else as before. -/
def Obligations.SetccWritesMappedByte : Prop :=
  ∀ (cc v : U8) (s : State), s.patch.wf = true →
    (encode (.setcc cc v)).toNat = 0x020000 + 256 * cc.toNat + v.toNat ∧
    ∃ t, exec (.setcc cc v) s = .next t ∧
      (∀ n : Fin 15, cc.toNat = 16 + n.val →
        (t.patchByte (s.cfg.ccMap.get n)).toNat = 2 * (v.toNat % 128) ∧
        ∀ o : PatchOffset, o ≠ s.cfg.ccMap.get n → t.patchByte o = s.patchByte o) ∧
      ((cc.toNat < 16 ∨ 30 < cc.toNat) → s.SamePatch t) ∧
      s.SameVoices t ∧ t.sampleRate = s.sampleRate ∧ t.playing = s.playing ∧ t.lastEventTime = s.lastEventTime ∧
      s.SameRenderer t ∧ s.SameOutput t ∧ s.SameEnvironment t

/-- R252: a controller number outside [16,30] changes nothing, and so does a RENDER without room. -/
def Obligations.IgnoredCommandsChangeNothing : Prop :=
  (∀ (cc v : U8) (s : State), (cc.toNat < 16 ∨ 30 < cc.toNat) → exec (.setcc cc v) s = .next s) ∧
  (∀ s : State, s.inputs.writable ≤ s.freeCapacity → s.inputs.writable < s.cfg.blockSize → exec .render s = .next s)

/-- R153: the word of SETBW; SETBW completes: `sample_rate` becomes floor((255 - b)/8), at most 31; all else as before. -/
def Obligations.SetbwSetsDecimation : Prop :=
  ∀ (b : U8) (s : State), (encode (.setbw b)).toNat = 0x040000 + b.toNat ∧ ∃ t, exec (.setbw b) s = .next t ∧
    t.sampleRate.toNat = (255 - b.toNat) / 8 ∧ t.sampleRate.toNat ≤ 31 ∧
    s.SamePatch t ∧ s.SameVoices t ∧ t.playing = s.playing ∧ t.lastEventTime = s.lastEventTime ∧
    s.SameRenderer t ∧ s.SameOutput t ∧ s.SameEnvironment t

/-- R154: the word of SETBAL; SETBAL completes: the three `level` bytes, every other patch byte and all else as before. -/
def Obligations.SetbalSetsLevels : Prop :=
  ∀ (m : U8) (s : State), s.patch.wf = true →
    (encode (.setbal m)).toNat = 0x050000 + m.toNat ∧ ∃ t, exec (.setbal m) s = .next t ∧
    (if m.toNat < 128 then
      (t.patchByte 5).toNat = 255 ∧ (t.patchByte 11).toNat = 2 * m.toNat ∧ (t.patchByte 17).toNat = m.toNat
     else
      (t.patchByte 5).toNat = 511 - 2 * m.toNat ∧ (t.patchByte 11).toNat = 255 ∧ (t.patchByte 17).toNat = 127) ∧
    (∀ o : PatchOffset, o.val % 6 ≠ 5 → t.patchByte o = s.patchByte o) ∧
    s.SameVoices t ∧ t.sampleRate = s.sampleRate ∧ t.playing = s.playing ∧ t.lastEventTime = s.lastEventTime ∧
    s.SameRenderer t ∧ s.SameOutput t ∧ s.SameEnvironment t

/-- R155: the word of IDLE; IDLE completes: it answers (now_ms - last_event_time) mod 2^32 and changes nothing else. -/
def Obligations.IdleAnswersElapsedTime : Prop :=
  encode .idle = 0x080000#24 ∧
  ∀ s : State, ∃ (t : State) (answer : U32), exec .idle s = .next t ∧ t = { s with responses := s.responses ++ [answer] } ∧
    (answer.toNat : Int) = ((s.inputs.nowMs.toNat : Int) - s.lastEventTime.toNat) % 4294967296

/-- R156: the all-zero word is NOP; NOP leaves the state as it was. -/
def Obligations.NopChangesNothing : Prop :=
  encode .nop = 0x000000#24 ∧ ∀ s : State, exec .nop s = .next s

/-- R23: MORPH, SETCC and SETBAL write the patch bytes, each only its own, and no other command writes one. -/
def Obligations.PatchWriters : Prop :=
  ∀ (i : Instr) (s t : State) (o : PatchOffset), s.patch.wf = true → exec i s = .next t → t.patchByte o ≠ s.patchByte o →
    (∃ (n : BitVec 2) (v : U8) (k : Instrument) (f : Fin 5), i = .morph n v ∧ n.toNat = k.index.val ∧
      o = flatOffset k f.castSucc) ∨
    (∃ (cc v : U8) (n : Fin 15), i = .setcc cc v ∧ cc.toNat = 16 + n.val ∧ o = s.cfg.ccMap.get n) ∨
    (∃ m : U8, i = .setbal m ∧ o.val % 6 = 5)

/-- The writers of the global registers and of the voice register file among the commands (R24, R28, R33 to R36, R38). -/
def Obligations.RegisterWriters : Prop :=
  ∀ (i : Instr) (s t : State), exec i s = .next t →
    (t.sampleRate ≠ s.sampleRate → ∃ b, i = .setbw b) ∧
    (t.lastEventTime ≠ s.lastEventTime → ∃ n v, i = .trig n v) ∧
    (t.noise ≠ s.noise ∨ t.sampleCounter ≠ s.sampleCounter → i = .render) ∧
    (t.sample ≠ s.sample ∨ t.fadeCounter ≠ s.fadeCounter → i = .render ∨ i = .silence) ∧
    (t.playing ≠ s.playing ∨ t.voices ≠ s.voices → i = .render ∨ ∃ n v, i = .trig n v) ∧
    (t.fifo ≠ s.fifo → i = .render ∨ i = .silence) ∧
    (t.responses ≠ s.responses → i = .idle) ∧ t.cfg = s.cfg ∧ t.drained = s.drained

/-! ### The modulation engine (42_modulation.md) -/

/-- R128 and E2: from phase 0 with increment d > 0 the envelope is at n*d while n*d < 65536 and finished from the advance
number ceil(65536/d) on; the flag of the advance says which. -/
def Obligations.EnvelopeFinishesAtCeiling : Prop :=
  ∀ (d : U16) (n : Nat), d ≠ 0#16 →
    (n * d.toNat < 65536 → advanceEnvelope^[n] (0#16, d) = (BitVec.ofNat 16 (n * d.toNat), d)) ∧
    (65536 ≤ n * d.toNat → advanceEnvelope^[n] (0#16, d) = (0xFFFF#16, 0#16)) ∧
    ((envadv (advanceEnvelope^[n] (0#16, d)).1 (advanceEnvelope^[n] (0#16, d)).2).2.2 = true ↔
      65536 ≤ (n + 1) * d.toNat)

/-- R181: UPDMOD advances the three amplitude envelopes, and `playing` is set exactly when some advance did not finish. -/
def Obligations.UpdmodAdvancesAmplitudeEnvelopes : Prop :=
  ∀ s : State,
    (∀ k : Instrument,
      let p := (s.voice k).ampEnvPhase
      let d := (s.voice k).ampEnvIncrement
      if d = 0 ∨ 65536 ≤ p.toNat + d.toNat then ((updmod s).voice k).ampFinished
      else (((updmod s).voice k).ampEnvPhase.toNat = p.toNat + d.toNat ∧ ((updmod s).voice k).ampEnvIncrement = d)) ∧
    ((updmod s).playing = true ↔
      ∃ k, (s.voice k).ampEnvIncrement ≠ 0 ∧ (s.voice k).ampEnvPhase.toNat + (s.voice k).ampEnvIncrement.toNat < 65536)

/-- R182, R188, R189: the levels UPDMOD computes. A is the high byte of curve times captured level, the curve read at the
phase just written; the snare's is split by `crunchiness` with divisor 255, and its two parts sum to A or to A - 1. -/
def Obligations.UpdmodComputesLevels : Prop :=
  ∀ s : State,
    let t := updmod s
    let A := fun k => (interp8 s.cfg.envCurve (t.voice k).ampEnvPhase).toNat * (s.voice k).level.toNat / 256
    let c := (s.field .sd .crunchiness).toNat
    (t.voice .bd).ampLevel.toNat = A .bd ∧ (t.voice .bd).ampLevelNoise = (s.voice .bd).ampLevelNoise ∧
    (t.voice .sd).ampLevel.toNat = A .sd * (255 - c) / 255 ∧ (t.voice .sd).ampLevelNoise.toNat = A .sd * c / 255 ∧
    ((t.voice .sd).ampLevel.toNat + (t.voice .sd).ampLevelNoise.toNat = A .sd ∨
      (t.voice .sd).ampLevel.toNat + (t.voice .sd).ampLevelNoise.toNat + 1 = A .sd) ∧
    (t.voice .hh).ampLevel.toNat = A .hh ∧ (t.voice .hh).ampLevelNoise = s.field .hh .crunchiness

/-- R183 to R185 and R187: the pitch envelopes of the two drums, the pitch of each instrument and the increments. -/
def Obligations.UpdmodComputesIncrements : Prop :=
  ∀ s : State,
    let t := updmod s
    let jitter := s.inputs.rnd.toNat * (s.field .bd .crunchiness).toNat / 256
    let bend := fun k => (s.field k .pitchMod).toNat * (interp8 s.cfg.envCurve (t.voice k).pitchEnvPhase).toNat
    let base := fun k => 256 * (s.field k .pitch).toNat
    let inc := interp16 s.cfg.phaseInc (BitVec.ofNat 16 (base .hh))
    (t.voice .bd).phaseIncrement = interp16 s.cfg.phaseInc (BitVec.ofNat 16 (base .bd + jitter + bend .bd)) ∧
    (t.voice .sd).phaseIncrement = interp16 s.cfg.phaseInc (BitVec.ofNat 16 (base .sd + bend .sd)) ∧
    (t.voice .hh).pitchEnvIncrement = inc ∧ (t.voice .hh).phaseIncrement.toNat = 3 * inc.toNat / 2 % 65536 ∧
    (t.voice .hh).pitchEnvPhase = (s.voice .hh).pitchEnvPhase ∧
    (∀ k, k ≠ .hh → ((t.voice k).pitchEnvPhase, (t.voice k).pitchEnvIncrement) =
      advanceEnvelope ((s.voice k).pitchEnvPhase, (s.voice k).pitchEnvIncrement))

/-- R180: UPDMOD never writes `phase`, `level`, the patch or the global render registers, and pushes no sample. -/
def Obligations.UpdmodFrame : Prop :=
  ∀ s : State, let t := updmod s
    (∀ k, (t.voice k).phase = (s.voice k).phase ∧ (t.voice k).level = (s.voice k).level) ∧
    s.SamePatch t ∧ t.sampleRate = s.sampleRate ∧ t.lastEventTime = s.lastEventTime ∧ s.SameRenderer t ∧ s.SameOutput t ∧
    s.SameEnvironment t

/-- R31 and R29: the registers TRIG leaves, and the hi-hat increment it loads, are recomputed before anything reads them:
UPDMOD's result does not depend on them. -/
def Obligations.UpdmodIgnoresStaleRegisters : Prop :=
  ∀ (s : State) (vs : Voices),
    (∀ k, (vs.get k).phase = (s.voice k).phase ∧ (vs.get k).pitchEnvPhase = (s.voice k).pitchEnvPhase ∧
      (vs.get k).ampEnvPhase = (s.voice k).ampEnvPhase ∧ (vs.get k).ampEnvIncrement = (s.voice k).ampEnvIncrement ∧
      (vs.get k).level = (s.voice k).level) →
    (∀ k, k ≠ .hh → (vs.get k).pitchEnvIncrement = (s.voice k).pitchEnvIncrement) →
    (vs.get .bd).ampLevelNoise = (s.voice .bd).ampLevelNoise →
    updmod { s with voices := vs } = updmod s

/-- R181 (a), whole machine: after a TRIG with envelope increment d > 0 while the other two voices are finished, `playing` is
set after the first ceil(65536/d) - 1 rendered blocks and clear from block ceil(65536/d) on, whatever `rnd` is. -/
def Obligations.NotePlaysForItsEnvelope : Prop :=
  ∀ (k : Instrument) (i : BitVec 2) (v : U8) (s t : State) (rnds : List U8),
    i.toNat = k.index.val → (∀ j, j ≠ k → (s.voice j).ampFinished) → exec (.trig i v) s = .next t →
    (t.voice k).ampEnvIncrement ≠ 0 → rnds ≠ [] →
    ((renderBlocks rnds t).playing = true ↔ rnds.length * (t.voice k).ampEnvIncrement.toNat < 65536)

/-! ### The renderer (43_render.md) -/

/-- R210: the word of RENDER; RENDER completes: with room for a block it runs UPDMOD once, SAMPLE BLOCK_SIZE times, and puts
the fade counter to 255; without room it changes nothing. -/
def Obligations.RenderRunsOneBlock : Prop :=
  encode .render = 0x060000#24 ∧
  ∀ s : State, s.inputs.writable ≤ s.freeCapacity →
    exec .render s = .next (if s.cfg.blockSize ≤ s.inputs.writable then
      { samplePeriod^[s.cfg.blockSize] (updmod s) with fadeCounter := 255 } else s)

/-- What RENDER with room leaves: exactly BLOCK_SIZE samples pushed, within the capacity (R71), and its frame. -/
def Obligations.RenderFrame : Prop :=
  ∀ s : State, s.inputs.writable ≤ s.freeCapacity → s.cfg.blockSize ≤ s.inputs.writable →
    ∃ (t : State) (out : List U8), exec .render s = .next t ∧
      out.length = s.cfg.blockSize ∧ t.fifo = s.fifo ++ out ∧ t.freeCapacity + s.cfg.blockSize = s.freeCapacity ∧
      t.fadeCounter = 255 ∧ s.SamePatch t ∧ t.sampleRate = s.sampleRate ∧ t.lastEventTime = s.lastEventTime ∧
      (∀ k, (t.voice k).level = (s.voice k).level) ∧ (t.voice .bd).ampLevelNoise = (s.voice .bd).ampLevelNoise ∧
      t.drained = s.drained ∧ t.responses = s.responses ∧ s.SameEnvironment t

/-- R212: the noise step; its period is 256, every byte is visited, the low bit alternates. -/
def Obligations.NoiseVisitsEveryByte : Prop :=
  (∀ s : State, (samplePeriod s).noise.toNat = (s.noise.toNat * 73 + 1) % 256) ∧
  ∀ n : U8, noiseStep^[256] n = n ∧ (∀ m : U8, ∃ j, j < 256 ∧ noiseStep^[j] n = m) ∧
    (noiseStep n).toNat % 2 = (n.toNat + 1) % 2

/-- R213: over n samples each primary phase, and the hi-hat's second operator, advances by n increments, modulo 65536; the
envelope phases and every increment and level stand still. -/
def Obligations.PhasesAdvancePerSample : Prop :=
  ∀ (n : Nat) (s : State), let t := samplePeriod^[n] s
    (∀ k, (t.voice k).phase.toNat = ((s.voice k).phase.toNat + n * (s.voice k).phaseIncrement.toNat) % 65536 ∧
      (t.voice k).ampEnvPhase = (s.voice k).ampEnvPhase ∧ (t.voice k).ampEnvIncrement = (s.voice k).ampEnvIncrement ∧
      (t.voice k).pitchEnvIncrement = (s.voice k).pitchEnvIncrement ∧
      (t.voice k).phaseIncrement = (s.voice k).phaseIncrement ∧ (t.voice k).level = (s.voice k).level ∧
      (t.voice k).ampLevel = (s.voice k).ampLevel ∧ (t.voice k).ampLevelNoise = (s.voice k).ampLevelNoise) ∧
    (t.voice .hh).pitchEnvPhase.toNat =
      ((s.voice .hh).pitchEnvPhase.toNat + n * (s.voice .hh).pitchEnvIncrement.toNat) % 65536 ∧
    (∀ k, k ≠ .hh → (t.voice k).pitchEnvPhase = (s.voice k).pitchEnvPhase)

/-- R215, R216, R219 and R220: the mixed sample is the bias 128 plus the three voices' contributions, each the floor of
signed sample times level over 256, clamped to 0..255. -/
def Obligations.MixedSampleFormula : Prop :=
  ∀ s : State,
    let wave := fun (i : Fin 256) => ((s.cfg.wavSine.get i.castSucc).toNat : Int)
    let bd := (((interp8 s.cfg.wavSine (s.voice .bd).phase).toNat : Int) - 128) * (s.voice .bd).ampLevel.toNat / 256
    let sdt := (wave (hiByte (s.voice .sd).phase).toFin - 128) * (s.voice .sd).ampLevel.toNat / 256
    let sdn := ((s.noise.toNat : Int) - 128) * (s.voice .sd).ampLevelNoise.toNat / 256
    let hr := hihatRaw s.cfg (hihatInverted (s.voice .hh).phase (s.voice .hh).pitchEnvPhase) s.noise
      (s.voice .hh).ampLevelNoise
    ((mixedSample s).toNat : Int) = max 0 (min 255 (128 + bd + sdt + sdn + hr * (s.voice .hh).ampLevel.toNat / 256))

/-- R214 and R220: each contribution lies in -128..126 and the mix in -384..632. -/
def Obligations.ContributionsInRange : Prop :=
  ∀ s : State,
    (-128 ≤ bassContribution s ∧ bassContribution s ≤ 126) ∧ (-128 ≤ snareTone s ∧ snareTone s ≤ 126) ∧
    (-128 ≤ snareNoise s ∧ snareNoise s ≤ 126) ∧ (-128 ≤ hihatContribution s ∧ hihatContribution s ≤ 126) ∧
    -384 ≤ mixOf (bassContribution s) (snareTone s) (snareNoise s) (hihatContribution s) ∧
    mixOf (bassContribution s) (snareTone s) (snareNoise s) (hihatContribution s) ≤ 632

/-- R217: the hi-hat's flag in bits of the 16-bit registers: clear exactly when bit 11 of the primary phase is clear, its bits
10 and 15 agree, and bits 11 and 13 of the second operator's phase agree. -/
def Obligations.HihatFlagBits : Prop :=
  ∀ p e : U16, hihatInverted p e = false ↔
    p.getLsbD 11 = false ∧ p.getLsbD 10 = p.getLsbD 15 ∧ e.getLsbD 11 = e.getLsbD 13

/-- R218: the hi-hat's raw level: the fixed levels on even noise, the opposite polarity with the noise-dependent magnitude on
odd noise; always in -128..127. -/
def Obligations.HihatRawLevel : Prop :=
  ∀ (c : Config) (inv : Bool) (noise a : U8),
    (noise.toNat % 2 = 0 → hihatRaw c inv noise a = if inv then c.hhNeg.toInt else c.hhPos.toInt) ∧
    (noise.toNat % 2 = 1 → hihatRaw c inv noise a =
      if inv then ((noise.toNat * a.toNat / 512 : Nat) : Int) else -((noise.toNat * a.toNat / 512 : Nat) : Int)) ∧
    -128 ≤ hihatRaw c inv noise a ∧ hihatRaw c inv noise a ≤ 127

/-- R211 and R221: one SAMPLE mixes from the stepped noise and the advanced phases, steps the counter, updates the held
sample when the counter exceeds `sample_rate`, and pushes the held sample. -/
def Obligations.SampleDecimatesAndPushes : Prop :=
  ∀ s : State,
    let u : State := { s with
      noise := noiseStep s.noise
      voices := ⟨{ s.voices.bd with phase := s.voices.bd.phase + s.voices.bd.phaseIncrement },
        { s.voices.sd with phase := s.voices.sd.phase + s.voices.sd.phaseIncrement },
        { s.voices.hh with
          phase := s.voices.hh.phase + s.voices.hh.phaseIncrement
          pitchEnvPhase := s.voices.hh.pitchEnvPhase + s.voices.hh.pitchEnvIncrement }⟩ }
    samplePeriod s =
      if s.sampleRate.toNat < (s.sampleCounter.toNat + 1) % 256 then
        { u with sample := mixedSample u, sampleCounter := 0, fifo := s.fifo ++ [mixedSample u] }
      else { u with sampleCounter := s.sampleCounter + 1, fifo := s.fifo ++ [s.sample] }

/-- R221 and E7: with `sample_rate` = N and the counter at 0 the held sample is repeated for N samples and the counter is back
at 0 after N + 1: it changes at most once every N + 1 samples. -/
def Obligations.HeldSampleChangesOncePerPeriod : Prop :=
  ∀ (s : State) (n : Nat), s.sampleCounter = 0 → s.sampleRate.toNat < 255 →
    (n ≤ s.sampleRate.toNat → (samplePeriod^[n] s).sample = s.sample ∧ (samplePeriod^[n] s).sampleCounter.toNat = n ∧
      (samplePeriod^[n] s).fifo = s.fifo ++ List.replicate n s.sample) ∧
    (n = s.sampleRate.toNat + 1 → (samplePeriod^[n] s).sampleCounter = 0 ∧
      (samplePeriod^[n] s).sample = mixedSample (startPeriod (samplePeriod^[n - 1] s)))

/-- R225 (b): with all three `amp_level` 0 and the snare's noise level 0, every mixed value is 128, however long. -/
def Obligations.SilentVoicesMixToCentre : Prop :=
  ∀ (s : State) (n : Nat), (∀ k, (s.voice k).ampLevel = 0) → (s.voice .sd).ampLevelNoise = 0 →
    mixedSample (startPeriod (samplePeriod^[n] s)) = 128#8

/-- R224: the word of SILENCE; SILENCE completes, with its result and its frame. -/
def Obligations.SilenceFadesAndFills : Prop :=
  encode .silence = 0x070000#24 ∧
  ∀ s : State, s.inputs.writable ≤ s.freeCapacity →
    ∃ t, exec .silence s = .next t ∧
      t.fadeCounter.toNat = (s.fadeCounter.toNat + 255) % 256 ∧
      (if s.fadeCounter = 0 ∧ s.cfg.silenceTarget.toNat < s.sample.toNat then t.sample.toNat + 1 = s.sample.toNat
       else if s.fadeCounter = 0 ∧ s.sample.toNat < s.cfg.silenceTarget.toNat then t.sample.toNat = s.sample.toNat + 1
       else t.sample = s.sample) ∧
      t.fifo = s.fifo ++ List.replicate s.inputs.writable t.sample ∧
      s.SamePatch t ∧ s.SameVoices t ∧ t.sampleRate = s.sampleRate ∧ t.sampleCounter = s.sampleCounter ∧
      t.noise = s.noise ∧ t.playing = s.playing ∧ t.lastEventTime = s.lastEventTime ∧ t.drained = s.drained ∧
      t.responses = s.responses ∧ s.SameEnvironment t

/-- R224: a row of SILENCE commands with honest reports, the first at `fade_counter` 255 as every rendered block leaves it
(R222). Between two of them anything may happen that leaves the held sample, the fade counter and the configuration. The
first 255 complete and keep the held sample; the 256th moves it one step toward SILENCE_TARGET, and the count starts over. -/
def Obligations.SilenceStepsEvery256Calls : Prop :=
  ∀ v : Nat → State, (v 0).fadeCounter = 255 → (∀ j, j < 256 → (v j).inputs.writable ≤ (v j).freeCapacity) →
    (∀ j t, j < 255 → exec .silence (v j) = .next t →
      (v (j + 1)).sample = t.sample ∧ (v (j + 1)).fadeCounter = t.fadeCounter ∧ (v (j + 1)).cfg = t.cfg) →
    (∀ j, j < 255 → ∃ t, exec .silence (v j) = .next t ∧ t.sample = (v 0).sample ∧ t.fadeCounter.toNat = 254 - j ∧
      t.fifo = (v j).fifo ++ List.replicate (v j).inputs.writable (v 0).sample) ∧
    ∃ t, exec .silence (v 255) = .next t ∧ t.fadeCounter = 255 ∧ t.cfg = (v 0).cfg ∧
      (if (v 0).cfg.silenceTarget.toNat < (v 0).sample.toNat then t.sample.toNat + 1 = (v 0).sample.toNat
       else if (v 0).sample.toNat < (v 0).cfg.silenceTarget.toNat then t.sample.toNat = (v 0).sample.toNat + 1
       else t.sample = (v 0).sample) ∧
      t.fifo = (v 255).fifo ++ List.replicate (v 255).inputs.writable t.sample

/-! ### Invariants and whole-machine rules -/

/-- The reset state of every configuration is good. -/
def Obligations.ResetIsGood : Prop :=
  ∀ c : Config, (State.resetOf c).Good

/-- Every step keeps a good state good: the PATCH space canonical, the sink within its capacity (R71), `sample_rate` and
`sample_counter` at most 31 (R24, R33), levels at most 254 and 253 (R150, R182). -/
def Obligations.StepKeepsGood : Prop :=
  ∀ s t : State, s.Good → step s = .next t → t.Good

/-- R39: the configuration is constant for the life of the model. -/
def Obligations.StepKeepsConfiguration : Prop :=
  ∀ s t : State, step s = .next t → t.cfg = s.cfg

/-- The observable output only grows: no step takes back a pushed sample (R70) or a response (R297). That the model holds all
responses, oldest first, is assumption 11 (DESIGN CHOICE), and what was drained beside what is queued is assumption 5. -/
def Obligations.OutputOnlyGrows : Prop :=
  ∀ s t : State, step s = .next t → s.pushed <+: t.pushed ∧ s.responses <+: t.responses

/-- An environment that keeps its contracts is never refused: from every state with a well-formed configuration, `n` steps are
a run whenever each of the `n` arrivals breaks no contract in the state it finds (`State.nextArrivalContractual`): any command
word of the opcode map with the sink's own report or any report within its room (R292), any DRAIN of a non-empty sink (R70),
`rst`, or nothing. When an over-report is refused is assumption 4. -/
def Obligations.ContractualRunsAreNeverRefused : Prop :=
  ∀ (s : State) (n : Nat), s.cfg.wf = true → s.keepsContracts n = true → ∃ t, s.runsTo n t

/-- R36: no rule of the block reads `playing`: a command's effect on everything else does not depend on it. -/
def Obligations.PlayingIsNeverRead : Prop :=
  ∀ (i : Instr) (s t : State) (b : Bool), exec i s = .next t →
    ∃ u, exec i { s with playing := b } = .next u ∧ { u with playing := t.playing } = t

/-- R32: `st[0].amp_level_noise` and `patch[2].pitch_mod` are never read: RENDER pushes the same samples whatever they are. -/
def Obligations.UnreadRegistersAreNotHeard : Prop :=
  ∀ (s t : State) (x y : U8), s.patch.wf = true → exec .render s = .next t →
    ∃ u, exec .render ((s.setVoice .bd { s.voice .bd with ampLevelNoise := x }).setField .hh .pitchMod y) = .next u ∧
      u.fifo = t.fifo ∧ u.sample = t.sample ∧ u.playing = t.playing ∧ u.voice .sd = t.voice .sd ∧
      u.voice .hh = t.voice .hh ∧ u.voice .bd = { t.voice .bd with ampLevelNoise := (u.voice .bd).ampLevelNoise }

/-- R285: INIT establishes all 18 patch bytes and `sample_rate` whatever they were. -/
def Obligations.InitIgnoresEarlierState : Prop :=
  ∀ (s u : State) (b m v0 v1 v2 : U8), s.cfg = u.cfg → s.patch.wf = true → u.patch.wf = true →
    ∃ s' u', execAll (initCommands b m v0 v1 v2) s = .next s' ∧ execAll (initCommands b m v0 v1 v2) u = .next u' ∧
      s'.sampleRate = u'.sampleRate ∧ ∀ o : PatchOffset, s'.patchByte o = u'.patchByte o

/-- R97: RENDERALL renders block after block while there is room, and stops with less than a block of room. R293: the reference
policy renders only while `playing` is set as well, so the block whose UPDMOD clears it is the last, and then one SILENCE fills
the sink. That each repetition reads the sink's own report and that no DRAIN happens between two (R70 and R76 allow one) is the
model's (assumption 17, DEDUCED); that the policy tests `playing` before every block is assumption 20 (DEDUCED). -/
def Obligations.RenderAllStopsWithoutRoom : Prop :=
  ∀ (s : State) (rnds : Nat → U8), 1 ≤ s.cfg.blockSize →
    (∃ t, renderAll rnds s = .next t ∧ t.freeCapacity < s.cfg.blockSize ∧
      t.fifo.length = s.fifo.length + s.cfg.blockSize * (s.freeCapacity / s.cfg.blockSize)) ∧
    ∃ (t : State) (n : Nat), servicePolicy rnds s = .next t ∧
      (∀ j, j < n → (scheduledBlocks j rnds s).playing = true ∧ s.cfg.blockSize ≤ (scheduledBlocks j rnds s).freeCapacity) ∧
      let u := scheduledBlocks n rnds s
      if u.playing then u.freeCapacity < s.cfg.blockSize ∧ t = u
      else if 0 < u.freeCapacity then exec .silence (u.scheduled (rnds n)) = .next t ∧ t.freeCapacity = 0
      else t = u

/-! ### Spaces and functions (20_memory.md, 40_arithmetic.md) -/

/-- R60 and R61: an index reads an element exactly when it is in its space; a PATCH write changes the one byte it names and
no element of any other space. One linear number for PRESET's three indices, and no value outside a space, are the model's
(assumption 18, DESIGN CHOICE): R60 gives no such number and R67 no such read. -/
def Obligations.SpacesAreDisjointAndBounded : Prop :=
  (∀ (s : State) (space : Space) (n : Nat), (s.memRead space n).isSome = true ↔ n < space.elements) ∧
  (∀ (s t : State) (n : Nat) (v : U8), s.patch.wf = true → s.memWrite .patch n v = some t →
    t.memRead .patch n = some v.toNat ∧
    ∀ (space : Space) (j : Nat), (space ≠ .patch ∨ j ≠ n) → t.memRead space j = s.memRead space j)

/-- R122: `mix8` is the floor of the exact interpolant and lies between its end points; at weight 0 it is its first end point;
at weight 255 it misses a rising end point by one and reaches a falling one. R123: `interp8` is `mix8` between the entry its
phase's high byte selects and the next one, weighted by the low byte, so at low byte 0 it is the entry; a difference held in 8
signed bits gives the same wherever neighbours differ by at most 127. -/
def Obligations.Mix8Interpolates : Prop :=
  (∀ a b w : U8,
    ((mix8 a b w).toNat : Int) = (a.toNat : Int) + ((b.toNat : Int) - a.toNat) * w.toNat / 256 ∧
    min a.toNat b.toNat ≤ (mix8 a b w).toNat ∧ (mix8 a b w).toNat ≤ max a.toNat b.toNat ∧
    mix8 a b 0 = a ∧ mix8 a a w = a ∧ (a.toNat < b.toNat → (mix8 a b 255).toNat + 1 = b.toNat) ∧
    (b.toNat < a.toNat → mix8 a b 255 = b)) ∧
  ∀ (T : Table U8 257) (p : U16) (n : Fin 256), n.val = p.toNat / 256 →
    let x := T.get n.castSucc
    let y := T.get n.succ
    ((interp8 T p).toNat : Int) = (x.toNat : Int) + ((y.toNat : Int) - x.toNat) * (p.toNat % 256 : Nat) / 256 ∧
    min x.toNat y.toNat ≤ (interp8 T p).toNat ∧ (interp8 T p).toNat ≤ max x.toNat y.toNat ∧
    (p.toNat % 256 = 0 → interp8 T p = x) ∧
    (x.toNat ≤ y.toNat + 127 → y.toNat ≤ x.toNat + 127 →
      ((interp8 T p).toNat : Int) = (x.toNat : Int) + (y - x).toInt * (p.toNat % 256 : Nat) / 256)

/-- R124: on a rising table `interp16` is the exact floor interpolant and lies between the two entries it reads. -/
def Obligations.Interp16Interpolates : Prop :=
  ∀ (T : Table U16 257) (x : U16) (n : Fin 256), n.val = x.toNat / 256 →
    (T.get n.castSucc).toNat ≤ (T.get n.succ).toNat →
    (interp16 T x).toNat = (T.get n.castSucc).toNat +
      ((T.get n.succ).toNat - (T.get n.castSucc).toNat) * (x.toNat % 256) / 256 ∧
    (T.get n.castSucc).toNat ≤ (interp16 T x).toNat ∧ (interp16 T x).toNat ≤ (T.get n.succ).toNat
end

