-- ==== Sys2Proof/Laws/Arith.lean ====
section
/-! SUPPORT. What each arithmetic function and operand form computes, as numbers (40_arithmetic.md; 41_patch_control.md). -/

namespace Sys2Proof.Machine

@[simp] theorem hiByte_toNat (v : U16) : (hiByte v).toNat = v.toNat / 256 := by
  have := v.isLt
  simp only [hiByte, BitVec.extractLsb'_toNat, Nat.shiftRight_eq_div_pow]
  omega

@[simp] theorem loByte_toNat (v : U16) : (loByte v).toNat = v.toNat % 256 := by
  simp [loByte, BitVec.extractLsb'_toNat]

@[simp] theorem tableIndex_val (v : U16) : (tableIndex v).val = v.toNat / 256 := hiByte_toNat v

theorem mulhi8_toNat (a b : U8) : (mulhi8 a b).toNat = a.toNat * b.toNat / 256 := by
  have h := Nat.mul_le_mul (Nat.le_of_lt_succ a.isLt) (Nat.le_of_lt_succ b.isLt)
  simp only [mulhi8, BitVec.toNat_ofNat]
  omega

/-- "Range 0..254" (R120). -/
theorem mulhi8_le (a b : U8) : (mulhi8 a b).toNat ≤ 254 := by
  have h := Nat.mul_le_mul (Nat.le_of_lt_succ a.isLt) (Nat.le_of_lt_succ b.isLt)
  rw [mulhi8_toNat]
  omega

/-- A product with a captured level is at most 253 (R182). -/
theorem mulhi8_le_of_le (a : U8) {b : U8} (hb : b.toNat ≤ 254) : (mulhi8 a b).toNat ≤ 253 := by
  have h := Nat.mul_le_mul (Nat.le_of_lt_succ a.isLt) hb
  rw [mulhi8_toNat]
  omega

@[simp] theorem mulhi8_zero (a : U8) : mulhi8 a 0#8 = 0#8 := by
  apply BitVec.eq_of_toNat_eq
  simp [mulhi8_toNat]

theorem div255_toNat {x : Nat} (h : x ≤ 65025) : (div255 x).toNat = x / 255 := by
  simp only [div255, BitVec.toNat_ofNat]
  omega

@[simp] theorem div255_zero : div255 0 = 0 := rfl

/-- The product of two bytes is in the range of `div255` (R126). -/
theorem byte_mul_le (a : U8) {c : Nat} (hc : c ≤ 255) : a.toNat * c ≤ 65025 :=
  (Nat.mul_le_mul (Nat.le_of_lt_succ a.isLt) hc).trans (by norm_num)

@[simp] theorem smul8_zero (s : Int) : smul8 s 0#8 = 0 := by simp [smul8]

/-- The range of a contribution (R121, R214). -/
theorem smul8_range {s : Int} (h1 : -128 ≤ s) (h2 : s ≤ 127) (u : U8) : -128 ≤ smul8 s u ∧ smul8 s u ≤ 126 := by
  have hu : (u.toNat : Int) ≤ 255 := by have := u.isLt; omega
  have h3 : s * u.toNat ≤ 127 * 255 := by nlinarith [Int.natCast_nonneg u.toNat]
  have h4 : -128 * 255 ≤ s * u.toNat := by nlinarith [Int.natCast_nonneg u.toNat]
  simp only [smul8]
  omega

/-- The range of a signed sample (R131). -/
theorem ctr_range (u : U8) : -128 ≤ ctr u ∧ ctr u ≤ 127 := by
  have := u.isLt
  simp only [ctr]
  omega

/-- A linear interpolation lies between its end points (R122, R124). -/
theorem blend_between (a b : Int) {w : Int} (h0 : 0 ≤ w) (h1 : w ≤ 255) :
    min a b ≤ a + (b - a) * w / 256 ∧ a + (b - a) * w / 256 ≤ max a b := by
  rcases le_total a b with h | h
  · have h3 : 0 ≤ (b - a) * w := mul_nonneg (by omega) h0
    have h4 : (b - a) * w ≤ (b - a) * 256 := by nlinarith
    omega
  · have h3 : (b - a) * w ≤ 0 := by nlinarith
    have h4 : (b - a) * 256 ≤ (b - a) * w := by nlinarith
    omega

/-- `mix8` as the exact interpolant (R122). -/
theorem mix8_toInt (a b w : U8) :
    ((mix8 a b w).toNat : Int) = (a.toNat : Int) + ((b.toNat : Int) - a.toNat) * w.toNat / 256 := by
  have ha := a.isLt
  have hb := b.isLt
  have hw := w.isLt
  have h := blend_between (a.toNat : Int) b.toNat (w := w.toNat) (by omega) (by omega)
  simp only [mix8, BitVec.toNat_ofInt]
  omega

/-- `interp8` as the exact interpolant (R123). -/
theorem interp8_toInt (T : Table U8 257) (p : U16) :
    ((interp8 T p).toNat : Int) = ((T.get (tableIndex p).castSucc).toNat : Int) +
      (((T.get (tableIndex p).succ).toNat : Int) - (T.get (tableIndex p).castSucc).toNat) * (p.toNat % 256 : Nat) / 256 := by
  rw [interp8, mix8_toInt, loByte_toNat]

/-- `interp16` as the exact interpolant (R124). -/
theorem interp16_toInt (T : Table U16 257) (x : U16) :
    ((interp16 T x).toNat : Int) = ((T.get (tableIndex x).castSucc).toNat : Int) +
      (((T.get (tableIndex x).succ).toNat : Int) - (T.get (tableIndex x).castSucc).toNat) * (x.toNat % 256 : Nat) / 256 := by
  have ha := (T.get (tableIndex x).castSucc).isLt
  have hb := (T.get (tableIndex x).succ).isLt
  have h := blend_between ((T.get (tableIndex x).castSucc).toNat : Int) (T.get (tableIndex x).succ).toNat
    (w := (x.toNat % 256 : Nat)) (by omega) (by omega)
  simp only [interp16, loByte_toNat, BitVec.toNat_ofInt]
  omega

/-- `sat8` clamps to 0..255 (R125). -/
theorem sat8_toInt (v : Int) : ((sat8 v).toNat : Int) = max 0 (min 255 v) := by
  unfold sat8
  split_ifs
  · simp; omega
  · simp; omega
  · simp only [BitVec.toNat_ofInt]; omega

theorem acc16_toNat (p d : U16) : (acc16 p d).toNat = (p.toNat + d.toNat) % 65536 := by
  simp [acc16, BitVec.toNat_add]

/-- An advance finishes exactly on a carry or on increment 0 (R128). -/
theorem envFinishes_iff (p d : U16) : envFinishes p d = true ↔ d = 0#16 ∨ 65536 ≤ p.toNat + d.toNat := by
  have hp := p.isLt
  have hd := d.isLt
  have h0 : d = 0#16 ↔ d.toNat = 0 := by
    constructor
    · rintro rfl; rfl
    · intro h; exact BitVec.eq_of_toNat_eq h
  simp only [envFinishes, decide_eq_true_eq, h0]
  omega

theorem envadv_eq (p d : U16) :
    envadv p d = if d = 0#16 ∨ 65536 ≤ p.toNat + d.toNat then (0xFFFF#16, 0#16, true) else (p + d, d, false) := by
  by_cases h : envFinishes p d = true
  · simp [envadv, envNextPhase, envNextIncrement, h, (envFinishes_iff p d).1 h]
  · have h' := mt (envFinishes_iff p d).2 h
    simp [envadv, envNextPhase, envNextIncrement, h, h']

theorem noiseStep_toNat (n : U8) : (noiseStep n).toNat = (n.toNat * 73 + 1) % 256 := by
  simp [noiseStep]

theorem ccValue_toNat (b : U8) : (ccValue b).toNat = 2 * (b.toNat % 128) := by
  simp only [ccValue, BitVec.toNat_ofNat]
  omega

@[simp] theorem morphPair_val (v : U8) : (morphPair v).val = v.toNat / 64 := by
  have := v.isLt
  change (v.extractLsb' 6 2).toNat = _
  simp only [BitVec.extractLsb'_toNat, Nat.shiftRight_eq_div_pow]
  omega

theorem morphWeight_toNat (v : U8) : (morphWeight v).toNat = 4 * (v.toNat % 64) := by
  simp only [morphWeight, BitVec.toNat_shiftLeft, BitVec.toNat_setWidth, BitVec.extractLsb'_toNat,
    Nat.shiftRight_eq_div_pow, Nat.shiftLeft_eq]
  omega

theorem decimationOf_toNat (b : U8) : (decimationOf b).toNat = (255 - b.toNat) / 8 := by
  have := b.isLt
  simp only [decimationOf, BitVec.toNat_ushiftRight, BitVec.toNat_not, Nat.shiftRight_eq_div_pow]

theorem balanceBass_toNat (m : U8) : (balanceBass m).toNat = if m.toNat < 128 then 255 else 511 - 2 * m.toNat := by
  have := m.isLt
  unfold balanceBass
  split_ifs
  · rfl
  · simp only [BitVec.toNat_not, BitVec.toNat_shiftLeft, Nat.shiftLeft_eq]; omega

theorem balanceSnare_toNat (m : U8) : (balanceSnare m).toNat = if m.toNat < 128 then 2 * m.toNat else 255 := by
  have := m.isLt
  unfold balanceSnare
  split_ifs
  · simp only [BitVec.toNat_shiftLeft, Nat.shiftLeft_eq]; omega
  · rfl

theorem balanceHihat_toNat (m : U8) : (balanceHihat m).toNat = (balanceSnare m).toNat / 2 := by
  simp [balanceHihat, BitVec.toNat_ushiftRight, Nat.shiftRight_eq_div_pow]

theorem elapsed_toNat (now last : U32) : (elapsed now last).toNat = (2 ^ 32 - last.toNat + now.toNat) % 2 ^ 32 := by
  simp [elapsed, BitVec.toNat_sub]

/-- Controllers 16..30 and no others have a CC_MAP entry (R152). -/
theorem ccEntry_isSome (cc : U8) : (ccEntry cc).isSome = true ↔ 16 ≤ cc.toNat ∧ cc.toNat ≤ 30 := by
  unfold ccEntry
  split_ifs with h <;> simp [h]

theorem ccEntry_eq_some {cc : U8} {n : Fin 15} (h : ccEntry cc = some n) : cc.toNat = n.val + 16 := by
  unfold ccEntry at h
  split_ifs at h with hc
  cases h
  simp only
  omega

/-- The instrument operand: 0, 1, 2 name the instruments, 3 names none (R92, R94). -/
theorem instrumentOf_eq_none (i : BitVec 2) : instrumentOf i = none ↔ i = 3#2 := by
  revert i; decide

theorem instrumentOf_eq_some (i : BitVec 2) (k : Instrument) : instrumentOf i = some k ↔ i.toNat = k.index.val := by
  revert i; cases k <;> decide

@[simp] theorem flatOffset_val (k : Instrument) (f : Fin 6) : (flatOffset k f).val = 6 * k.index.val + f.val := rfl

@[simp] theorem fieldOffset_val (k : Instrument) (f : PatchField) : (fieldOffset k f).val = 6 * k.index.val + f.index.val :=
  rfl

end Sys2Proof.Machine
end

