-- ==== Sys2Proof/Laws/Decode.lean ====
section
/-! SUPPORT. The three fields of a command word, and the word made of three fields (30_encoding.md rule R90). -/

namespace Sys2Proof

theorem opField_toNat (w : CmdWord) : (opField w).toNat = w.toNat / 65536 := by
  have := w.isLt
  simp only [opField, BitVec.extractLsb'_toNat, Nat.shiftRight_eq_div_pow]
  omega

theorem aField_toNat (w : CmdWord) : (aField w).toNat = w.toNat / 256 % 256 := by
  simp [aField, BitVec.extractLsb'_toNat, Nat.shiftRight_eq_div_pow]

theorem bField_toNat (w : CmdWord) : (bField w).toNat = w.toNat % 256 := by
  simp [bField, BitVec.extractLsb'_toNat]

theorem joinFields_toNat (op a b : U8) : (joinFields op a b).toNat = 65536 * op.toNat + 256 * a.toNat + b.toNat := by
  have := op.isLt
  have := a.isLt
  have := b.isLt
  simp only [joinFields, BitVec.toNat_ofNat]
  omega

@[simp] theorem opField_joinFields (op a b : U8) : opField (joinFields op a b) = op := by
  apply BitVec.eq_of_toNat_eq
  rw [opField_toNat, joinFields_toNat]
  have := a.isLt
  have := b.isLt
  omega

@[simp] theorem aField_joinFields (op a b : U8) : aField (joinFields op a b) = a := by
  apply BitVec.eq_of_toNat_eq
  rw [aField_toNat, joinFields_toNat]
  have := a.isLt
  have := b.isLt
  omega

@[simp] theorem bField_joinFields (op a b : U8) : bField (joinFields op a b) = b := by
  apply BitVec.eq_of_toNat_eq
  rw [bField_toNat, joinFields_toNat]
  have := b.isLt
  omega

/-- A word is its three fields (R90). -/
@[simp] theorem joinFields_fields (w : CmdWord) : joinFields (opField w) (aField w) (bField w) = w := by
  apply BitVec.eq_of_toNat_eq
  rw [joinFields_toNat, opField_toNat, aField_toNat, bField_toNat]
  omega

/-- Two words with equal fields are equal. -/
theorem eq_of_fields {v w : CmdWord} (h1 : opField v = opField w) (h2 : aField v = aField w) (h3 : bField v = bField w) :
    v = w := by
  rw [← joinFields_fields v, ← joinFields_fields w, h1, h2, h3]

/-- What the instrument operand decodes to (R92, R94). -/
theorem decodeInstrument_eq_ok {a : U8} {i : BitVec 2} :
    decodeInstrument a = .ok i ↔ a = i.setWidth 8 ∧ i ≠ 3#2 := by
  revert a i
  decide

/-- Masking off the `k` low bits of a word and comparing, as arithmetic. -/
theorem and_high_eq (w : CmdWord) (k : Nat) {mask : CmdWord} (pattern : CmdWord)
    (h : mask = BitVec.allOnes 24 <<< k) : (w &&& mask == pattern) = decide (w.toNat / 2 ^ k * 2 ^ k = pattern.toNat) := by
  subst h
  have hw : w.toNat / 2 ^ k * 2 ^ k < 2 ^ 24 := lt_of_le_of_lt (Nat.div_mul_le_self _ _) w.isLt
  rw [← BitVec.shiftLeft_ushiftRight, Bool.eq_iff_iff, beq_iff_eq, decide_eq_true_eq, ← BitVec.toNat_inj]
  simp only [BitVec.toNat_shiftLeft, BitVec.toNat_ushiftRight, Nat.shiftRight_eq_div_pow, Nat.shiftLeft_eq]
  rw [Nat.mod_eq_of_lt hw]

/-- The four masks of the opcode map, as arithmetic on the word (R93). -/
theorem and_mask24 (w p : CmdWord) : (w &&& 0xFFFFFF#24 == p) = decide (w.toNat = p.toNat) := by
  rw [and_high_eq w 0 p (by decide)]; simp

theorem and_mask16 (w p : CmdWord) : (w &&& 0xFFFF00#24 == p) = decide (w.toNat / 256 * 256 = p.toNat) :=
  and_high_eq w 8 p (by decide)

theorem and_mask14 (w p : CmdWord) : (w &&& 0xFFFC00#24 == p) = decide (w.toNat / 1024 * 1024 = p.toNat) :=
  and_high_eq w 10 p (by decide)

theorem and_mask8 (w p : CmdWord) : (w &&& 0xFF0000#24 == p) = decide (w.toNat / 65536 * 65536 = p.toNat) :=
  and_high_eq w 16 p (by decide)

/-- The extra condition of the TRIG and MORPH rows, as arithmetic on the word (R93). -/
theorem aField_bne_three (w : CmdWord) : (aField w != 3#8) = decide (w.toNat / 256 % 256 ≠ 3) := by
  rw [Bool.eq_iff_iff, bne_iff_ne, decide_eq_true_eq, ne_eq, ne_eq, ← BitVec.toNat_inj, aField_toNat]
  rfl

end Sys2Proof
end

