-- ==== Sys2Proof/Laws/State.lean ====
section
/-! SUPPORT. The fields of State after each named update, each true by rfl, and the voice register file. -/

namespace Sys2Proof.Machine

section

variable (s : State) (k : Instrument) (d : DrumState)

@[simp] theorem State.setVoice_cfg : (s.setVoice k d).cfg = s.cfg := rfl
@[simp] theorem State.setVoice_patch : (s.setVoice k d).patch = s.patch := rfl
@[simp] theorem State.setVoice_voices : (s.setVoice k d).voices = s.voices.set k d := rfl
@[simp] theorem State.setVoice_sampleRate : (s.setVoice k d).sampleRate = s.sampleRate := rfl
@[simp] theorem State.setVoice_sample : (s.setVoice k d).sample = s.sample := rfl
@[simp] theorem State.setVoice_sampleCounter : (s.setVoice k d).sampleCounter = s.sampleCounter := rfl
@[simp] theorem State.setVoice_noise : (s.setVoice k d).noise = s.noise := rfl
@[simp] theorem State.setVoice_fadeCounter : (s.setVoice k d).fadeCounter = s.fadeCounter := rfl
@[simp] theorem State.setVoice_playing : (s.setVoice k d).playing = s.playing := rfl
@[simp] theorem State.setVoice_lastEventTime : (s.setVoice k d).lastEventTime = s.lastEventTime := rfl
@[simp] theorem State.setVoice_inputs : (s.setVoice k d).inputs = s.inputs := rfl
@[simp] theorem State.setVoice_fifo : (s.setVoice k d).fifo = s.fifo := rfl
@[simp] theorem State.setVoice_drained : (s.setVoice k d).drained = s.drained := rfl
@[simp] theorem State.setVoice_responses : (s.setVoice k d).responses = s.responses := rfl
@[simp] theorem State.setVoice_arrivals : (s.setVoice k d).arrivals = s.arrivals := rfl
@[simp] theorem State.setVoice_patchByte (p : PatchOffset) : (s.setVoice k d).patchByte p = s.patchByte p := rfl
@[simp] theorem State.setVoice_field (j : Instrument) (g : PatchField) : (s.setVoice k d).field j g = s.field j g := rfl
@[simp] theorem State.setVoice_freeCapacity : (s.setVoice k d).freeCapacity = s.freeCapacity := rfl
@[simp] theorem State.setVoice_pushed : (s.setVoice k d).pushed = s.pushed := rfl

end

section

variable (s : State) (o : PatchOffset) (v : U8)

@[simp] theorem State.writePatch_cfg : (s.writePatch o v).cfg = s.cfg := rfl
@[simp] theorem State.writePatch_patch : (s.writePatch o v).patch = s.patch.write o.val v := rfl
@[simp] theorem State.writePatch_voices : (s.writePatch o v).voices = s.voices := rfl
@[simp] theorem State.writePatch_sampleRate : (s.writePatch o v).sampleRate = s.sampleRate := rfl
@[simp] theorem State.writePatch_sample : (s.writePatch o v).sample = s.sample := rfl
@[simp] theorem State.writePatch_sampleCounter : (s.writePatch o v).sampleCounter = s.sampleCounter := rfl
@[simp] theorem State.writePatch_noise : (s.writePatch o v).noise = s.noise := rfl
@[simp] theorem State.writePatch_fadeCounter : (s.writePatch o v).fadeCounter = s.fadeCounter := rfl
@[simp] theorem State.writePatch_playing : (s.writePatch o v).playing = s.playing := rfl
@[simp] theorem State.writePatch_lastEventTime : (s.writePatch o v).lastEventTime = s.lastEventTime := rfl
@[simp] theorem State.writePatch_inputs : (s.writePatch o v).inputs = s.inputs := rfl
@[simp] theorem State.writePatch_fifo : (s.writePatch o v).fifo = s.fifo := rfl
@[simp] theorem State.writePatch_drained : (s.writePatch o v).drained = s.drained := rfl
@[simp] theorem State.writePatch_responses : (s.writePatch o v).responses = s.responses := rfl
@[simp] theorem State.writePatch_arrivals : (s.writePatch o v).arrivals = s.arrivals := rfl
@[simp] theorem State.writePatch_voice (j : Instrument) : (s.writePatch o v).voice j = s.voice j := rfl
@[simp] theorem State.writePatch_freeCapacity : (s.writePatch o v).freeCapacity = s.freeCapacity := rfl
@[simp] theorem State.writePatch_pushed : (s.writePatch o v).pushed = s.pushed := rfl

end

section

variable (s : State) (k : Instrument) (f : PatchField) (v : U8)

@[simp] theorem State.setField_cfg : (s.setField k f v).cfg = s.cfg := rfl
@[simp] theorem State.setField_patch : (s.setField k f v).patch = s.patch.write (fieldOffset k f).val v := rfl
@[simp] theorem State.setField_voices : (s.setField k f v).voices = s.voices := rfl
@[simp] theorem State.setField_sampleRate : (s.setField k f v).sampleRate = s.sampleRate := rfl
@[simp] theorem State.setField_sample : (s.setField k f v).sample = s.sample := rfl
@[simp] theorem State.setField_sampleCounter : (s.setField k f v).sampleCounter = s.sampleCounter := rfl
@[simp] theorem State.setField_noise : (s.setField k f v).noise = s.noise := rfl
@[simp] theorem State.setField_fadeCounter : (s.setField k f v).fadeCounter = s.fadeCounter := rfl
@[simp] theorem State.setField_playing : (s.setField k f v).playing = s.playing := rfl
@[simp] theorem State.setField_lastEventTime : (s.setField k f v).lastEventTime = s.lastEventTime := rfl
@[simp] theorem State.setField_inputs : (s.setField k f v).inputs = s.inputs := rfl
@[simp] theorem State.setField_fifo : (s.setField k f v).fifo = s.fifo := rfl
@[simp] theorem State.setField_drained : (s.setField k f v).drained = s.drained := rfl
@[simp] theorem State.setField_responses : (s.setField k f v).responses = s.responses := rfl
@[simp] theorem State.setField_arrivals : (s.setField k f v).arrivals = s.arrivals := rfl
@[simp] theorem State.setField_voice (j : Instrument) : (s.setField k f v).voice j = s.voice j := rfl
@[simp] theorem State.setField_freeCapacity : (s.setField k f v).freeCapacity = s.freeCapacity := rfl
@[simp] theorem State.setField_pushed : (s.setField k f v).pushed = s.pushed := rfl

end

section

variable (s : State) (v : U8)

@[simp] theorem State.push_cfg : (s.push v).cfg = s.cfg := rfl
@[simp] theorem State.push_patch : (s.push v).patch = s.patch := rfl
@[simp] theorem State.push_voices : (s.push v).voices = s.voices := rfl
@[simp] theorem State.push_sampleRate : (s.push v).sampleRate = s.sampleRate := rfl
@[simp] theorem State.push_sample : (s.push v).sample = s.sample := rfl
@[simp] theorem State.push_sampleCounter : (s.push v).sampleCounter = s.sampleCounter := rfl
@[simp] theorem State.push_noise : (s.push v).noise = s.noise := rfl
@[simp] theorem State.push_fadeCounter : (s.push v).fadeCounter = s.fadeCounter := rfl
@[simp] theorem State.push_playing : (s.push v).playing = s.playing := rfl
@[simp] theorem State.push_lastEventTime : (s.push v).lastEventTime = s.lastEventTime := rfl
@[simp] theorem State.push_inputs : (s.push v).inputs = s.inputs := rfl
@[simp] theorem State.push_fifo : (s.push v).fifo = s.fifo ++ [v] := rfl
@[simp] theorem State.push_drained : (s.push v).drained = s.drained := rfl
@[simp] theorem State.push_responses : (s.push v).responses = s.responses := rfl
@[simp] theorem State.push_arrivals : (s.push v).arrivals = s.arrivals := rfl
@[simp] theorem State.push_voice (j : Instrument) : (s.push v).voice j = s.voice j := rfl
@[simp] theorem State.push_patchByte (p : PatchOffset) : (s.push v).patchByte p = s.patchByte p := rfl
@[simp] theorem State.push_field (j : Instrument) (g : PatchField) : (s.push v).field j g = s.field j g := rfl

end

section

variable (s : State) (n : Nat) (v : U8)

@[simp] theorem State.pushMany_cfg : (s.pushMany n v).cfg = s.cfg := rfl
@[simp] theorem State.pushMany_patch : (s.pushMany n v).patch = s.patch := rfl
@[simp] theorem State.pushMany_voices : (s.pushMany n v).voices = s.voices := rfl
@[simp] theorem State.pushMany_sampleRate : (s.pushMany n v).sampleRate = s.sampleRate := rfl
@[simp] theorem State.pushMany_sample : (s.pushMany n v).sample = s.sample := rfl
@[simp] theorem State.pushMany_sampleCounter : (s.pushMany n v).sampleCounter = s.sampleCounter := rfl
@[simp] theorem State.pushMany_noise : (s.pushMany n v).noise = s.noise := rfl
@[simp] theorem State.pushMany_fadeCounter : (s.pushMany n v).fadeCounter = s.fadeCounter := rfl
@[simp] theorem State.pushMany_playing : (s.pushMany n v).playing = s.playing := rfl
@[simp] theorem State.pushMany_lastEventTime : (s.pushMany n v).lastEventTime = s.lastEventTime := rfl
@[simp] theorem State.pushMany_inputs : (s.pushMany n v).inputs = s.inputs := rfl
@[simp] theorem State.pushMany_fifo : (s.pushMany n v).fifo = s.fifo ++ List.replicate n v := rfl
@[simp] theorem State.pushMany_drained : (s.pushMany n v).drained = s.drained := rfl
@[simp] theorem State.pushMany_responses : (s.pushMany n v).responses = s.responses := rfl
@[simp] theorem State.pushMany_arrivals : (s.pushMany n v).arrivals = s.arrivals := rfl
@[simp] theorem State.pushMany_voice (j : Instrument) : (s.pushMany n v).voice j = s.voice j := rfl
@[simp] theorem State.pushMany_patchByte (p : PatchOffset) : (s.pushMany n v).patchByte p = s.patchByte p := rfl
@[simp] theorem State.pushMany_field (j : Instrument) (g : PatchField) : (s.pushMany n v).field j g = s.field j g := rfl

end

section

variable (s : State) (v : U32)

@[simp] theorem State.respond_cfg : (s.respond v).cfg = s.cfg := rfl
@[simp] theorem State.respond_patch : (s.respond v).patch = s.patch := rfl
@[simp] theorem State.respond_voices : (s.respond v).voices = s.voices := rfl
@[simp] theorem State.respond_sampleRate : (s.respond v).sampleRate = s.sampleRate := rfl
@[simp] theorem State.respond_sample : (s.respond v).sample = s.sample := rfl
@[simp] theorem State.respond_sampleCounter : (s.respond v).sampleCounter = s.sampleCounter := rfl
@[simp] theorem State.respond_noise : (s.respond v).noise = s.noise := rfl
@[simp] theorem State.respond_fadeCounter : (s.respond v).fadeCounter = s.fadeCounter := rfl
@[simp] theorem State.respond_playing : (s.respond v).playing = s.playing := rfl
@[simp] theorem State.respond_lastEventTime : (s.respond v).lastEventTime = s.lastEventTime := rfl
@[simp] theorem State.respond_inputs : (s.respond v).inputs = s.inputs := rfl
@[simp] theorem State.respond_fifo : (s.respond v).fifo = s.fifo := rfl
@[simp] theorem State.respond_drained : (s.respond v).drained = s.drained := rfl
@[simp] theorem State.respond_responses : (s.respond v).responses = s.responses ++ [v] := rfl
@[simp] theorem State.respond_arrivals : (s.respond v).arrivals = s.arrivals := rfl
@[simp] theorem State.respond_voice (j : Instrument) : (s.respond v).voice j = s.voice j := rfl
@[simp] theorem State.respond_patchByte (p : PatchOffset) : (s.respond v).patchByte p = s.patchByte p := rfl
@[simp] theorem State.respond_field (j : Instrument) (g : PatchField) : (s.respond v).field j g = s.field j g := rfl
@[simp] theorem State.respond_freeCapacity : (s.respond v).freeCapacity = s.freeCapacity := rfl
@[simp] theorem State.respond_pushed : (s.respond v).pushed = s.pushed := rfl

end

section

variable (s : State) (now : U32) (r : U8) (w : Option Nat) (rest : List Event)

@[simp] theorem State.accept_cfg : (s.accept now r w rest).cfg = s.cfg := rfl
@[simp] theorem State.accept_patch : (s.accept now r w rest).patch = s.patch := rfl
@[simp] theorem State.accept_voices : (s.accept now r w rest).voices = s.voices := rfl
@[simp] theorem State.accept_sampleRate : (s.accept now r w rest).sampleRate = s.sampleRate := rfl
@[simp] theorem State.accept_sample : (s.accept now r w rest).sample = s.sample := rfl
@[simp] theorem State.accept_sampleCounter : (s.accept now r w rest).sampleCounter = s.sampleCounter := rfl
@[simp] theorem State.accept_noise : (s.accept now r w rest).noise = s.noise := rfl
@[simp] theorem State.accept_fadeCounter : (s.accept now r w rest).fadeCounter = s.fadeCounter := rfl
@[simp] theorem State.accept_playing : (s.accept now r w rest).playing = s.playing := rfl
@[simp] theorem State.accept_lastEventTime : (s.accept now r w rest).lastEventTime = s.lastEventTime := rfl
@[simp] theorem State.accept_inputs : (s.accept now r w rest).inputs = ⟨now, r, w.getD s.freeCapacity⟩ := rfl
@[simp] theorem State.accept_fifo : (s.accept now r w rest).fifo = s.fifo := rfl
@[simp] theorem State.accept_drained : (s.accept now r w rest).drained = s.drained := rfl
@[simp] theorem State.accept_responses : (s.accept now r w rest).responses = s.responses := rfl
@[simp] theorem State.accept_arrivals : (s.accept now r w rest).arrivals = rest := rfl
@[simp] theorem State.accept_voice (j : Instrument) : (s.accept now r w rest).voice j = s.voice j := rfl
@[simp] theorem State.accept_patchByte (p : PatchOffset) : (s.accept now r w rest).patchByte p = s.patchByte p := rfl
@[simp] theorem State.accept_field (j : Instrument) (g : PatchField) : (s.accept now r w rest).field j g = s.field j g := rfl
@[simp] theorem State.accept_freeCapacity : (s.accept now r w rest).freeCapacity = s.freeCapacity := rfl
@[simp] theorem State.accept_pushed : (s.accept now r w rest).pushed = s.pushed := rfl

end

section

variable (s : State) (rest : List Event)

@[simp] theorem State.hardReset_cfg : (s.hardReset rest).cfg = s.cfg := rfl
@[simp] theorem State.hardReset_patch : (s.hardReset rest).patch = [] := rfl
@[simp] theorem State.hardReset_voices : (s.hardReset rest).voices = ⟨DrumState.zero, DrumState.zero, DrumState.zero⟩ := rfl
@[simp] theorem State.hardReset_sampleRate : (s.hardReset rest).sampleRate = 0 := rfl
@[simp] theorem State.hardReset_sample : (s.hardReset rest).sample = 128 := rfl
@[simp] theorem State.hardReset_sampleCounter : (s.hardReset rest).sampleCounter = 0 := rfl
@[simp] theorem State.hardReset_noise : (s.hardReset rest).noise = 0 := rfl
@[simp] theorem State.hardReset_fadeCounter : (s.hardReset rest).fadeCounter = 255 := rfl
@[simp] theorem State.hardReset_playing : (s.hardReset rest).playing = false := rfl
@[simp] theorem State.hardReset_lastEventTime : (s.hardReset rest).lastEventTime = 0 := rfl
@[simp] theorem State.hardReset_inputs : (s.hardReset rest).inputs = s.inputs := rfl
@[simp] theorem State.hardReset_fifo : (s.hardReset rest).fifo = s.fifo := rfl
@[simp] theorem State.hardReset_drained : (s.hardReset rest).drained = s.drained := rfl
@[simp] theorem State.hardReset_responses : (s.hardReset rest).responses = s.responses := rfl
@[simp] theorem State.hardReset_arrivals : (s.hardReset rest).arrivals = rest := rfl
@[simp] theorem State.hardReset_freeCapacity : (s.hardReset rest).freeCapacity = s.freeCapacity := rfl
@[simp] theorem State.hardReset_pushed : (s.hardReset rest).pushed = s.pushed := rfl

end

@[simp] theorem Voices.get_bd (vs : Voices) : vs.get .bd = vs.bd := rfl
@[simp] theorem Voices.get_sd (vs : Voices) : vs.get .sd = vs.sd := rfl
@[simp] theorem Voices.get_hh (vs : Voices) : vs.get .hh = vs.hh := rfl

/-- Reading the voice register file after one record is replaced. -/
theorem Voices.get_set (vs : Voices) (k j : Instrument) (d : DrumState) :
    (vs.set k d).get j = if j = k then d else vs.get j := by
  cases k <;> cases j <;> rfl

@[simp] theorem Voices.get_set_same (vs : Voices) (k : Instrument) (d : DrumState) : (vs.set k d).get k = d := by
  simp [Voices.get_set]

@[simp] theorem Voices.get_set_ne (vs : Voices) {k j : Instrument} (h : j ≠ k) (d : DrumState) :
    (vs.set k d).get j = vs.get j := by
  simp [Voices.get_set, h]

@[simp] theorem Voices.set_get (vs : Voices) (k : Instrument) : vs.set k (vs.get k) = vs := by
  cases k <;> rfl

@[simp] theorem Voices.set_set (vs : Voices) (k : Instrument) (d e : DrumState) : (vs.set k d).set k e = vs.set k e := by
  cases k <;> rfl

/-- Replacing two different records commutes. -/
theorem Voices.set_comm (vs : Voices) {k j : Instrument} (h : j ≠ k) (d e : DrumState) :
    (vs.set k d).set j e = (vs.set j e).set k d := by
  cases k <;> cases j <;> first | rfl | exact absurd rfl h

@[simp] theorem State.setVoice_voice_same (s : State) (k : Instrument) (d : DrumState) : (s.setVoice k d).voice k = d := by
  simp [State.voice]

@[simp] theorem State.setVoice_voice_ne (s : State) {k j : Instrument} (h : j ≠ k) (d : DrumState) :
    (s.setVoice k d).voice j = s.voice j := by
  simp [State.voice, h]

@[simp] theorem State.voices_get (s : State) (k : Instrument) : s.voices.get k = s.voice k := rfl

@[simp] theorem State.push_pushed (s : State) (v : U8) : (s.push v).pushed = s.pushed ++ [v] := by
  simp [State.pushed]

@[simp] theorem State.pushMany_pushed (s : State) (n : Nat) (v : U8) :
    (s.pushMany n v).pushed = s.pushed ++ List.replicate n v := by
  simp [State.pushed]

/-- Two states with equal fields are equal. -/
theorem State.eq_of_fields {s t : State} (h1 : s.cfg = t.cfg) (h2 : s.patch = t.patch) (h3 : s.voices = t.voices)
    (h4 : s.sampleRate = t.sampleRate) (h5 : s.sample = t.sample) (h6 : s.sampleCounter = t.sampleCounter)
    (h7 : s.noise = t.noise) (h8 : s.fadeCounter = t.fadeCounter) (h9 : s.playing = t.playing)
    (h10 : s.lastEventTime = t.lastEventTime) (h11 : s.inputs = t.inputs) (h12 : s.fifo = t.fifo)
    (h13 : s.drained = t.drained) (h14 : s.responses = t.responses) (h15 : s.arrivals = t.arrivals) : s = t := by
  cases s; cases t; simp_all

end Sys2Proof.Machine
end

