-- ==== Sys2Proof/Laws/Memory.lean ====
section
/-! SUPPORT. The PATCH space: reads after writes, and the canonical form, which every memory operation keeps. -/

namespace Sys2Proof.Machine

@[simp] theorem Memory.read_nil (k : Nat) : Memory.read [] k = Memory.unlisted := rfl

theorem Memory.read_cons (a : Nat) (v : U8) (m : Memory) (k : Nat) :
    Memory.read ((a, v) :: m) k = if a = k then v else Memory.read m k := rfl

theorem Memory.wfFrom_cons (lo hi a : Nat) (v : U8) (m : Memory) :
    Memory.wfFrom lo hi ((a, v) :: m) = true ↔
      lo ≤ a ∧ a < hi ∧ v ≠ Memory.unlisted ∧ Memory.wfFrom (a + 1) hi m = true := by
  simp [Memory.wfFrom, and_assoc]

/-- A lower bound of the listed addresses may be lowered. -/
theorem Memory.wfFrom_mono {lo lo' hi : Nat} {m : Memory} (h : Memory.wfFrom lo hi m = true) (hl : lo' ≤ lo) :
    Memory.wfFrom lo' hi m = true := by
  cases m with
  | nil => rfl
  | cons e m =>
    obtain ⟨a, v⟩ := e
    rw [Memory.wfFrom_cons] at h ⊢
    exact ⟨hl.trans h.1, h.2⟩

/-- Below the listed addresses everything reads as unlisted. -/
theorem Memory.read_below {lo hi k : Nat} {m : Memory} (h : Memory.wfFrom lo hi m = true) (hk : k < lo) :
    m.read k = Memory.unlisted := by
  induction m generalizing lo with
  | nil => rfl
  | cons e m ih =>
    obtain ⟨a, v⟩ := e
    rw [Memory.wfFrom_cons] at h
    rw [Memory.read_cons, if_neg (by omega)]
    exact ih h.2.2.2 (by omega)

/-- A write keeps the canonical form. -/
theorem Memory.write_wfFrom {lo hi k : Nat} {m : Memory} (h : Memory.wfFrom lo hi m = true) (hlo : lo ≤ k) (hhi : k < hi)
    (v : U8) : Memory.wfFrom lo hi (m.write k v) = true := by
  induction m generalizing lo with
  | nil =>
    unfold Memory.write
    split
    · rfl
    · rw [Memory.wfFrom_cons]; exact ⟨hlo, hhi, ‹_›, rfl⟩
  | cons e m ih =>
    obtain ⟨a, x⟩ := e
    obtain ⟨h1, h2, h3, h4⟩ := (Memory.wfFrom_cons _ _ _ _ _).1 h
    simp only [Memory.write]
    split_ifs with hak hv he hv
    · rw [Memory.wfFrom_cons]; exact ⟨h1, h2, h3, ih h4 (by omega)⟩
    · exact Memory.wfFrom_mono h4 (by omega)
    · rw [Memory.wfFrom_cons]; exact ⟨hlo, hhi, ‹_›, ‹a = k› ▸ h4⟩
    · exact h
    · rw [Memory.wfFrom_cons, Memory.wfFrom_cons]
      exact ⟨hlo, hhi, ‹_›, by omega, h2, h3, h4⟩

/-- A read after a write: the written byte at its address, every other byte as before. -/
theorem Memory.read_write {lo hi : Nat} {m : Memory} (h : Memory.wfFrom lo hi m = true) (k j : Nat) (v : U8) :
    (m.write k v).read j = if j = k then v else m.read j := by
  induction m generalizing lo with
  | nil =>
    by_cases hv : v = Memory.unlisted <;> by_cases hj : k = j <;>
      simp [Memory.write, Memory.read_cons, hv, hj, eq_comm]
  | cons e m ih =>
    obtain ⟨a, x⟩ := e
    obtain ⟨-, -, -, h4⟩ := (Memory.wfFrom_cons _ _ _ _ _).1 h
    have below : ∀ i, i ≤ a → Memory.read m i = Memory.unlisted := fun i hi => Memory.read_below h4 (by omega)
    rcases lt_trichotomy a k with hak | rfl | hka
    · simp only [Memory.write, if_pos hak, Memory.read_cons, ih h4]
      split_ifs <;> first | rfl | omega
    · by_cases hv : v = Memory.unlisted <;> by_cases hj : j = a
      · simp [Memory.write, hv, hj, below]
      · simp [Memory.write, hv, hj, Memory.read_cons, Ne.symm hj]
      · simp [Memory.write, hv, hj, Memory.read_cons]
      · simp [Memory.write, hv, hj, Memory.read_cons, Ne.symm hj]
    · have h1 : ¬a < k := by omega
      have h2 : a ≠ k := by omega
      by_cases hv : v = Memory.unlisted <;> by_cases hj : j = k
      · subst hj; simp [Memory.write, hv, h1, h2, Memory.read_cons, below j hka.le]
      · simp [Memory.write, hv, hj, h1, h2, Memory.read_cons]
      · subst hj; simp [Memory.write, hv, h1, h2, Memory.read_cons]
      · simp [Memory.write, hv, hj, h1, h2, Memory.read_cons, Ne.symm hj]

/-- The write keeps the form of the PATCH space. -/
theorem Memory.write_wf {m : Memory} (h : m.wf = true) {k : Nat} (hk : k < 18) (v : U8) : (m.write k v).wf = true :=
  Memory.write_wfFrom h (Nat.zero_le _) hk v

/-- In canonical form the reads determine the memory: equal memories are equal data. -/
theorem Memory.eq_of_read {lo hi : Nat} {m n : Memory} (hm : Memory.wfFrom lo hi m = true) (hn : Memory.wfFrom lo hi n = true)
    (h : ∀ k, m.read k = n.read k) : m = n := by
  induction m generalizing lo n with
  | nil =>
    cases n with
    | nil => rfl
    | cons e n =>
      obtain ⟨a, v⟩ := e
      rw [Memory.wfFrom_cons] at hn
      have := h a
      simp [Memory.read_cons] at this
      exact absurd this.symm hn.2.2.1
  | cons e m ih =>
    obtain ⟨a, v⟩ := e
    obtain ⟨m1, m2, m3, m4⟩ := (Memory.wfFrom_cons _ _ _ _ _).1 hm
    cases n with
    | nil =>
      have := h a
      simp [Memory.read_cons] at this
      exact absurd this m3
    | cons e' n =>
      obtain ⟨b, w⟩ := e'
      obtain ⟨n1, n2, n3, n4⟩ := (Memory.wfFrom_cons _ _ _ _ _).1 hn
      have hab : a = b := by
        rcases lt_trichotomy a b with hlt | he | hlt
        · have := h a
          rw [Memory.read_cons, if_pos rfl, Memory.read_cons, if_neg (by omega), Memory.read_below n4 (by omega)] at this
          exact absurd this m3
        · exact he
        · have := h b
          rw [Memory.read_cons, if_neg (by omega), Memory.read_cons, if_pos rfl, Memory.read_below m4 (by omega)] at this
          exact absurd this.symm n3
      subst hab
      have hvw : v = w := by simpa [Memory.read_cons] using h a
      subst hvw
      refine congrArg _ (ih m4 n4 fun k => ?_)
      by_cases hk : a = k
      · subst hk; rw [Memory.read_below m4 (by omega), Memory.read_below n4 (by omega)]
      · have := h k; rwa [Memory.read_cons, if_neg hk, Memory.read_cons, if_neg hk] at this

/-- `PATCH[p]` after `PATCH[o] <- v`. -/
theorem State.writePatch_patchByte {s : State} (h : s.patch.wf = true) (o p : PatchOffset) (v : U8) :
    (s.writePatch o v).patchByte p = if p = o then v else s.patchByte p := by
  simp only [State.patchByte, State.writePatch, Memory.read_write (lo := 0) (hi := 18) h, Fin.ext_iff]

/-- A patch write keeps the canonical form. -/
theorem State.writePatch_wf {s : State} (h : s.patch.wf = true) (o : PatchOffset) (v : U8) :
    (s.writePatch o v).patch.wf = true := Memory.write_wf h o.isLt v

end Sys2Proof.Machine
end

