-- ==== Sys2Proof/Laws/Ops.lean ====
section
/-! SUPPORT. What each shared operation, and a step, can do: said once, so that later proofs cite it. -/

namespace Sys2Proof.Machine

/-- `onInstrument` answers next exactly for a legal instrument. -/
theorem onInstrument_eq_next {i : BitVec 2} {s t : State} {act : Instrument → State → State} :
    onInstrument i s act = .next t ↔ ∃ k, instrumentOf i = some k ∧ t = act k s := by
  unfold onInstrument
  split
  · rename_i k hk; simpa [hk] using eq_comm
  · rename_i hk; simp [hk]

theorem onInstrument_of_some {i : BitVec 2} {k : Instrument} (h : instrumentOf i = some k) (s : State)
    (act : Instrument → State → State) : onInstrument i s act = .next (act k s) := by
  simp [onInstrument, h]

/-- `withSinkReport` answers next exactly for an honest report. -/
theorem withSinkReport_eq_next {s t : State} {act : State → State} :
    withSinkReport s act = .next t ↔ s.inputs.writable ≤ s.freeCapacity ∧ t = act s := by
  unfold withSinkReport State.reportHonest
  split_ifs with h
  · simp only [Host.Outcome.next.injEq, of_decide_eq_true h, true_and, eq_comm]
  · simp only [false_iff, not_and]
    intro h'; exact absurd (decide_eq_true h') h

theorem withSinkReport_of_le {s : State} (h : s.inputs.writable ≤ s.freeCapacity) (act : State → State) :
    withSinkReport s act = .next (act s) := withSinkReport_eq_next.2 ⟨h, rfl⟩

/-- DRAIN answers next exactly on a non-empty sink, and moves its oldest sample. -/
theorem drain_eq_next {s t : State} {rest : List Event} :
    s.drain rest = .next t ↔
      ∃ v later, s.fifo = v :: later ∧
        t = { s with fifo := later, drained := s.drained ++ [v], arrivals := rest } := by
  unfold State.drain
  split
  · rename_i h; simp [h]
  · rename_i v later h; simpa [h] using eq_comm

/-- A command word answers next exactly when it decodes and its meaning does. -/
theorem runCommand_eq_next {cmd : CmdWord} {s t : State} :
    runCommand cmd s = .next t ↔ ∃ i, decode cmd = .ok i ∧ exec i s = .next t := by
  unfold runCommand
  split
  · rename_i i h; simp [h]
  · rename_i why h; simp [h]

/-- What a step can do. -/
theorem step_eq_next {s t : State} :
    step s = .next t ↔ s.cfg.wf = true ∧
      ((s.arrivals = [] ∧ t = s) ∨
        (∃ cmd now r w rest i, s.arrivals = .command cmd now r w :: rest ∧ decode cmd = .ok i ∧
          exec i (s.accept now r w rest) = .next t) ∨
        (∃ rest, s.arrivals = .drain :: rest ∧ s.drain rest = .next t) ∨
        (∃ rest, s.arrivals = .rst :: rest ∧ t = s.hardReset rest)) := by
  unfold step stepConfigured
  split_ifs with hw
  · simp only [hw, true_and]
    unfold runArrival
    split <;> rename_i h <;> simp only [h] <;> simp [runCommand_eq_next] <;> exact eq_comm
  · simp [hw]

/-- What the meanings of TRIG and MORPH can do. -/
theorem execTrig_eq_next {i : BitVec 2} {v : U8} {s t : State} :
    execTrig i v s = .next t ↔ ∃ k, instrumentOf i = some k ∧ t = trigger v k s := onInstrument_eq_next

theorem execMorph_eq_next {i : BitVec 2} {v : U8} {s t : State} :
    execMorph i v s = .next t ↔ ∃ k, instrumentOf i = some k ∧ t = morph v k s := onInstrument_eq_next

/-- What the meaning of SETCC can do. -/
theorem execSetcc_eq_next {cc v : U8} {s t : State} :
    execSetcc cc v s = .next t ↔
      (∃ n, ccEntry cc = some n ∧ t = s.writePatch (s.cfg.ccMap.get n) (ccValue v)) ∨ (ccEntry cc = none ∧ t = s) := by
  unfold execSetcc
  split <;> rename_i h <;> simpa [h] using eq_comm

/-- What the meaning of RENDER can do. -/
theorem execRender_eq_next {s t : State} :
    execRender s = .next t ↔ s.inputs.writable ≤ s.freeCapacity ∧
      ((s.cfg.blockSize ≤ s.inputs.writable ∧ t = renderBlock s) ∨ (s.inputs.writable < s.cfg.blockSize ∧ t = s)) := by
  unfold execRender
  rw [withSinkReport_eq_next]
  by_cases h : s.cfg.blockSize ≤ s.inputs.writable
  · simp [State.roomForBlock, h, Nat.not_lt.2 h]
  · simp [State.roomForBlock, h, Nat.lt_of_not_le h]

/-- What the meaning of SILENCE can do. -/
theorem execSilence_eq_next {s t : State} :
    execSilence s = .next t ↔ s.inputs.writable ≤ s.freeCapacity ∧ t = fillSink (fade s) := withSinkReport_eq_next

end Sys2Proof.Machine
end

