-- ==== Sys2Proof/Laws/PatchControl.lean ====
section
/-! SUPPORT. What the writes of MORPH and of SETBAL do to the PATCH space, said once (41_patch_control.md rules R151, R154). -/

namespace Sys2Proof.Machine

/-- A list of MORPH's field writes: the form is kept, the written bytes hold the blends, every other byte is as before. -/
theorem morphFields_patch (v : U8) (k : Instrument) (fs : List (Fin 5)) {s : State} (hw : s.patch.wf = true) :
    (fs.foldl (morphField v k) s).patch.wf = true ∧
    (∀ o, (∀ f ∈ fs, o ≠ flatOffset k f.castSucc) → (fs.foldl (morphField v k) s).patchByte o = s.patchByte o) ∧
    (∀ f ∈ fs, (fs.foldl (morphField v k) s).patchByte (flatOffset k f.castSucc) = morphByte s.cfg k v f) := by
  induction fs generalizing s with
  | nil => exact ⟨hw, fun _ _ => rfl, by simp⟩
  | cons f fs ih =>
    obtain ⟨form, other, written⟩ := ih (s := morphField v k s f) (State.writePatch_wf hw _ _)
    refine ⟨form, fun o ho => ?_, fun g hg => ?_⟩
    · rw [List.foldl_cons, other o (fun f hf => ho f (by simp [hf])), morphField, State.writePatch_patchByte hw,
        if_neg (ho f (by simp))]
    · rw [List.foldl_cons]
      by_cases hgl : g ∈ fs
      · exact written g hgl
      · obtain rfl : g = f := by simpa [hgl] using hg
        rw [other, morphField, State.writePatch_patchByte hw, if_pos rfl]
        rintro f hf h
        have := congrArg Fin.val h
        simp only [flatOffset_val, Fin.val_castSucc] at this
        exact hgl (Fin.ext (by omega : g.val = f.val) ▸ hf)

/-- Every state register but the PATCH space is as before a MORPH (R151). -/
theorem morph_eq (v : U8) (k : Instrument) (s : State) : morph v k s = { s with patch := (morph v k s).patch } := rfl

/-- The bytes after SETBAL (R154). -/
theorem setbal_patchByte (m : U8) {s t : State} (hw : s.patch.wf = true) (h : execSetbal m s = .next t) (o : PatchOffset) :
    t.patchByte o = if o = fieldOffset .hh .level then balanceHihat m
      else if o = fieldOffset .sd .level then balanceSnare m
      else if o = fieldOffset .bd .level then balanceBass m else s.patchByte o := by
  cases h
  have h1 := State.writePatch_wf hw (fieldOffset .bd .level) (balanceBass m)
  have h2 := State.writePatch_wf h1 (fieldOffset .sd .level) (balanceSnare m)
  simp only [State.setField, State.writePatch_patchByte h2, State.writePatch_patchByte h1, State.writePatch_patchByte hw]

end Sys2Proof.Machine
end

