-- ==== Sys2Proof/Laws/PerInstr.lean ====
section
/-! SUPPORT. The family `TableRow`: the encoder and the opcode map, written apart from each other, agree command by command
(30_encoding.md rule R93). -/

namespace Sys2Proof.Laws.TableRow

/-- The command's own row of the opcode map selects the command's word exactly when the command is well formed. -/
def Statement (i : Instr) : Prop :=
  ∃ r ∈ opcodeMap, r.mnemonic = i.mnemonic ∧ (r.selects (encode i) = true ↔ i.wf = true)

theorem nop : Statement .nop := ⟨⟨"NOP", 0x000000#24, 0xFFFFFF#24, false⟩, by decide, rfl, by decide⟩

theorem trig (i : BitVec 2) (v : U8) : Statement (.trig i v) := by
  refine ⟨⟨"TRIG", 0x010000#24, 0xFFFC00#24, true⟩, by decide, rfl, ?_⟩
  have hi := i.isLt
  have hv := v.isLt
  have h3 : i ≠ 3#2 ↔ i.toNat ≠ 3 := by rw [ne_eq, ne_eq, ← BitVec.toNat_inj]; rfl
  simp [OpcodeRow.selects, encode, and_mask14, aField_bne_three, joinFields_toNat, Instr.wf, instrumentOperandOk, h3,
    -aField_joinFields]
  omega

theorem setcc (cc v : U8) : Statement (.setcc cc v) := by
  refine ⟨⟨"SETCC", 0x020000#24, 0xFF0000#24, false⟩, by decide, rfl, ?_⟩
  have hc := cc.isLt
  have hv := v.isLt
  simp [OpcodeRow.selects, encode, and_mask8, joinFields_toNat, Instr.wf]
  omega

theorem morph (i : BitVec 2) (v : U8) : Statement (.morph i v) := by
  refine ⟨⟨"MORPH", 0x030000#24, 0xFFFC00#24, true⟩, by decide, rfl, ?_⟩
  have hi := i.isLt
  have hv := v.isLt
  have h3 : i ≠ 3#2 ↔ i.toNat ≠ 3 := by rw [ne_eq, ne_eq, ← BitVec.toNat_inj]; rfl
  simp [OpcodeRow.selects, encode, and_mask14, aField_bne_three, joinFields_toNat, Instr.wf, instrumentOperandOk, h3,
    -aField_joinFields]
  omega

theorem setbw (b : U8) : Statement (.setbw b) := by
  refine ⟨⟨"SETBW", 0x040000#24, 0xFFFF00#24, false⟩, by decide, rfl, ?_⟩
  have hb := b.isLt
  simp [OpcodeRow.selects, encode, and_mask16, joinFields_toNat, Instr.wf]
  omega

theorem setbal (m : U8) : Statement (.setbal m) := by
  refine ⟨⟨"SETBAL", 0x050000#24, 0xFFFF00#24, false⟩, by decide, rfl, ?_⟩
  have hm := m.isLt
  simp [OpcodeRow.selects, encode, and_mask16, joinFields_toNat, Instr.wf]
  omega

theorem render : Statement .render := ⟨⟨"RENDER", 0x060000#24, 0xFFFFFF#24, false⟩, by decide, rfl, by decide⟩

theorem silence : Statement .silence := ⟨⟨"SILENCE", 0x070000#24, 0xFFFFFF#24, false⟩, by decide, rfl, by decide⟩

theorem idle : Statement .idle := ⟨⟨"IDLE", 0x080000#24, 0xFFFFFF#24, false⟩, by decide, rfl, by decide⟩

end Sys2Proof.Laws.TableRow
end

