-- ==== Sys2Proof/Laws/Render.lean ====
section
/-! SUPPORT. What UPDMOD and SAMPLE leave unchanged, field by field, and what they do to each register, said once. -/

namespace Sys2Proof.Machine

/-- The part of the state that neither UPDMOD nor SAMPLE ever writes. -/
structure State.SameFixed (s t : State) : Prop where
  cfg : t.cfg = s.cfg
  patch : t.patch = s.patch
  sampleRate : t.sampleRate = s.sampleRate
  fadeCounter : t.fadeCounter = s.fadeCounter
  lastEventTime : t.lastEventTime = s.lastEventTime
  inputs : t.inputs = s.inputs
  drained : t.drained = s.drained
  responses : t.responses = s.responses
  arrivals : t.arrivals = s.arrivals

theorem State.SameFixed.refl (s : State) : s.SameFixed s := ⟨rfl, rfl, rfl, rfl, rfl, rfl, rfl, rfl, rfl⟩

theorem State.SameFixed.trans {s t u : State} (h : s.SameFixed t) (g : t.SameFixed u) : s.SameFixed u :=
  ⟨g.1.trans h.1, g.2.trans h.2, g.3.trans h.3, g.4.trans h.4, g.5.trans h.5, g.6.trans h.6, g.7.trans h.7,
    g.8.trans h.8, g.9.trans h.9⟩

theorem State.SameFixed.field {s t : State} (h : s.SameFixed t) (k : Instrument) (f : PatchField) :
    t.field k f = s.field k f := by
  simp [State.field, State.patchByte, h.patch]

/-- The renderer's registers, which UPDMOD never writes (R180). -/
structure State.SameSampling (s t : State) : Prop where
  sample : t.sample = s.sample
  sampleCounter : t.sampleCounter = s.sampleCounter
  noise : t.noise = s.noise
  fifo : t.fifo = s.fifo

theorem State.SameSampling.refl (s : State) : s.SameSampling s := ⟨rfl, rfl, rfl, rfl⟩

theorem State.SameSampling.trans {s t u : State} (h : s.SameSampling t) (g : t.SameSampling u) : s.SameSampling u :=
  ⟨g.1.trans h.1, g.2.trans h.2, g.3.trans h.3, g.4.trans h.4⟩

/-- A voice register write changes neither part. -/
theorem setVoice_same (s : State) (k : Instrument) (d : DrumState) :
    s.SameFixed (s.setVoice k d) ∧ s.SameSampling (s.setVoice k d) :=
  ⟨⟨rfl, rfl, rfl, rfl, rfl, rfl, rfl, rfl, rfl⟩, ⟨rfl, rfl, rfl, rfl⟩⟩

/-- `st[j]` after the amplitude-envelope step of instrument `k` (R181). -/
theorem ampEnvelopeStep_voice (k j : Instrument) (s : State) :
    (ampEnvelopeStep k s).voice j = if j = k then { s.voice k with
      ampEnvPhase := envNextPhase (s.voice k).ampEnvPhase (s.voice k).ampEnvIncrement
      ampEnvIncrement := envNextIncrement (s.voice k).ampEnvPhase (s.voice k).ampEnvIncrement } else s.voice j := by
  cases k <;> cases j <;> rfl

/-- `st[j]` after the amplitude-level step of instrument `k` (R182). -/
theorem ampLevelStep_voice (k j : Instrument) (s : State) :
    (ampLevelStep k s).voice j = if j = k then { s.voice k with
      ampLevel := mulhi8 (interp8 s.cfg.envCurve (s.voice k).ampEnvPhase) (s.voice k).level } else s.voice j := by
  cases k <;> cases j <;> rfl

/-- `st[j]` after the pitch-envelope step of instrument `k` (R184). -/
theorem pitchEnvelopeStep_voice (k j : Instrument) (s : State) :
    (pitchEnvelopeStep k s).voice j = if j = k ∧ k ≠ .hh then { s.voice k with
      pitchEnvPhase := envNextPhase (s.voice k).pitchEnvPhase (s.voice k).pitchEnvIncrement
      pitchEnvIncrement := envNextIncrement (s.voice k).pitchEnvPhase (s.voice k).pitchEnvIncrement } else s.voice j := by
  cases k <;> cases j <;> rfl

/-- `st[j]` after the increment step of instrument `k` (R185, R187). -/
theorem incrementStep_voice (k j : Instrument) (s : State) :
    (incrementStep k s).voice j = if j = k then
      (if k = .hh then { s.voice k with pitchEnvIncrement := oscillatorIncrement k s,
                                        phaseIncrement := threeHalves (oscillatorIncrement k s) }
       else { s.voice k with phaseIncrement := oscillatorIncrement k s }) else s.voice j := by
  cases k <;> cases j <;> rfl

theorem ampEnvelopeStep_same (k : Instrument) (s : State) :
    s.SameFixed (ampEnvelopeStep k s) ∧ s.SameSampling (ampEnvelopeStep k s) :=
  ⟨⟨rfl, rfl, rfl, rfl, rfl, rfl, rfl, rfl, rfl⟩, ⟨rfl, rfl, rfl, rfl⟩⟩

theorem pitchEnvelopeStep_same (k : Instrument) (s : State) :
    s.SameFixed (pitchEnvelopeStep k s) ∧ s.SameSampling (pitchEnvelopeStep k s) := by
  cases k
  · exact setVoice_same _ _ _
  · exact setVoice_same _ _ _
  · exact ⟨.refl s, .refl s⟩

theorem incrementStep_same (k : Instrument) (s : State) :
    s.SameFixed (incrementStep k s) ∧ s.SameSampling (incrementStep k s) := by
  cases k <;> exact setVoice_same _ _ _

/-- One instrument of UPDMOD writes voice registers and `playing` only (R180). -/
theorem updateVoice_same (k : Instrument) (s : State) :
    s.SameFixed (updateVoice s k) ∧ s.SameSampling (updateVoice s k) := by
  have h1 := ampEnvelopeStep_same k s
  have h2 : (ampEnvelopeStep k s).SameFixed (ampLevelStep k (ampEnvelopeStep k s)) ∧
      (ampEnvelopeStep k s).SameSampling (ampLevelStep k (ampEnvelopeStep k s)) := setVoice_same _ _ _
  have h3 := pitchEnvelopeStep_same k (ampLevelStep k (ampEnvelopeStep k s))
  have h4 := incrementStep_same k (pitchEnvelopeStep k (ampLevelStep k (ampEnvelopeStep k s)))
  exact ⟨((h1.1.trans h2.1).trans h3.1).trans h4.1, ((h1.2.trans h2.2).trans h3.2).trans h4.2⟩

/-- One instrument of UPDMOD leaves the other voices as they were: "no iteration reads what another wrote" (R180). -/
theorem updateVoice_voice_ne {j k : Instrument} (h : j ≠ k) (s : State) : (updateVoice s k).voice j = s.voice j := by
  simp [updateVoice, incrementStep_voice, pitchEnvelopeStep_voice, ampLevelStep_voice, ampEnvelopeStep_voice, h]

/-- `playing` after one instrument of UPDMOD (R181). -/
theorem updateVoice_playing (k : Instrument) (s : State) :
    (updateVoice s k).playing = (s.playing || !envFinishes (s.voice k).ampEnvPhase (s.voice k).ampEnvIncrement) := by
  cases k <;> rfl

/-- The pitch temporary reads the patch, `rnd` and the pitch-envelope phase of its own voice only (R183, R184). -/
theorem pitchOf_congr {s t : State} (h : s.SameFixed t) (k : Instrument)
    (hp : (t.voice k).pitchEnvPhase = (s.voice k).pitchEnvPhase) : pitchOf k t = pitchOf k s := by
  cases k <;> simp [pitchOf, basePitch, pitchModulation, h.field, h.inputs, h.cfg, hp]

/-- The increment of steps 4 and 5 reads no more than that (R185). -/
theorem oscillatorIncrement_congr {s t : State} (h : s.SameFixed t) (k : Instrument)
    (hp : (t.voice k).pitchEnvPhase = (s.voice k).pitchEnvPhase) : oscillatorIncrement k t = oscillatorIncrement k s := by
  rw [oscillatorIncrement, oscillatorIncrement, pitchOf_congr h k hp, h.cfg]

/-- The voice of instrument `k` as UPDMOD's steps 1 to 5 leave it, from the state before them (R181 to R187). -/
theorem updateVoice_voice_same (k : Instrument) (s : State) :
    (updateVoice s k).voice k =
      (let d := s.voice k
       let amp := envNextPhase d.ampEnvPhase d.ampEnvIncrement
       let inc := oscillatorIncrement k (pitchEnvelopeStep k s)
       { d with
         ampEnvPhase := amp
         ampEnvIncrement := envNextIncrement d.ampEnvPhase d.ampEnvIncrement
         ampLevel := mulhi8 (interp8 s.cfg.envCurve amp) d.level
         pitchEnvPhase := if k = .hh then d.pitchEnvPhase else envNextPhase d.pitchEnvPhase d.pitchEnvIncrement
         pitchEnvIncrement := if k = .hh then inc else envNextIncrement d.pitchEnvPhase d.pitchEnvIncrement
         phaseIncrement := if k = .hh then threeHalves inc else inc }) := by
  have h1 := ampEnvelopeStep_same k s
  have h2 : (ampEnvelopeStep k s).SameFixed (ampLevelStep k (ampEnvelopeStep k s)) := (setVoice_same _ _ _).1
  have hp : (pitchEnvelopeStep k (ampLevelStep k (ampEnvelopeStep k s))).voice k =
      { (ampLevelStep k (ampEnvelopeStep k s)).voice k with
        pitchEnvPhase := ((pitchEnvelopeStep k s).voice k).pitchEnvPhase
        pitchEnvIncrement := ((pitchEnvelopeStep k s).voice k).pitchEnvIncrement } := by
    cases k <;> rfl
  have hi : oscillatorIncrement k (pitchEnvelopeStep k (ampLevelStep k (ampEnvelopeStep k s))) =
      oscillatorIncrement k (pitchEnvelopeStep k s) := by
    have h := (h1.1.trans h2).trans (pitchEnvelopeStep_same k (ampLevelStep k (ampEnvelopeStep k s))).1
    have g := (pitchEnvelopeStep_same k s).1
    rw [oscillatorIncrement, oscillatorIncrement, h.cfg, g.cfg]
    congr 1
    cases k <;> simp [pitchOf, basePitch, pitchModulation, h.field, g.field, h.inputs, g.inputs, h.cfg, g.cfg, hp]
  rw [updateVoice, incrementStep_voice, if_pos rfl, hi, hp, ampLevelStep_voice, if_pos rfl, ampEnvelopeStep_voice,
    if_pos rfl, h1.1.cfg]
  cases k <;> simp [pitchEnvelopeStep_voice]

/-- UPDMOD, its three iterations written out (R180). -/
theorem updmod_eq (s : State) : updmod s =
    hihatNoiseLevel (snareSplit
      (updateVoice (updateVoice (updateVoice { s with playing := playingAtUpdmodStart } .bd) .sd) .hh)) := rfl

/-- The state UPDMOD's iterations start from: only `playing` differs. -/
theorem updmodStart_same (s : State) : s.SameFixed { s with playing := playingAtUpdmodStart } ∧
    s.SameSampling { s with playing := playingAtUpdmodStart } :=
  ⟨⟨rfl, rfl, rfl, rfl, rfl, rfl, rfl, rfl, rfl⟩, ⟨rfl, rfl, rfl, rfl⟩⟩

/-- Step 6 writes voice registers only (R188, R189). -/
theorem noiseLevels_same (s : State) :
    s.SameFixed (hihatNoiseLevel (snareSplit s)) ∧ s.SameSampling (hihatNoiseLevel (snareSplit s)) := by
  have h1 : s.SameFixed (snareSplit s) ∧ s.SameSampling (snareSplit s) := setVoice_same _ _ _
  have h2 : (snareSplit s).SameFixed (hihatNoiseLevel (snareSplit s)) ∧
      (snareSplit s).SameSampling (hihatNoiseLevel (snareSplit s)) := setVoice_same _ _ _
  exact ⟨h1.1.trans h2.1, h1.2.trans h2.2⟩

/-- UPDMOD writes voice registers and `playing` only (R180). -/
theorem updmod_same (s : State) : s.SameFixed (updmod s) ∧ s.SameSampling (updmod s) := by
  rw [updmod_eq]
  have h0 := updmodStart_same s
  have h1 := updateVoice_same .bd { s with playing := playingAtUpdmodStart }
  have h2 := updateVoice_same .sd (updateVoice { s with playing := playingAtUpdmodStart } .bd)
  have h3 := updateVoice_same .hh (updateVoice (updateVoice { s with playing := playingAtUpdmodStart } .bd) .sd)
  have h4 := noiseLevels_same
    (updateVoice (updateVoice (updateVoice { s with playing := playingAtUpdmodStart } .bd) .sd) .hh)
  exact ⟨(((h0.1.trans h1.1).trans h2.1).trans h3.1).trans h4.1, (((h0.2.trans h1.2).trans h2.2).trans h3.2).trans h4.2⟩

/-- A patch byte of the state before UPDMOD is the same during it. -/
theorem updateVoice_field (j k : Instrument) (f : PatchField) (s : State) : (updateVoice s j).field k f = s.field k f :=
  (updateVoice_same j s).1.field k f

/-- The voice steps 1 to 5 leave depends on the voice before, the patch, the configuration and `rnd` only. -/
theorem updateVoice_voice_congr {s t : State} (h : s.SameFixed t) (k : Instrument) (hv : t.voice k = s.voice k) :
    (updateVoice t k).voice k = (updateVoice s k).voice k := by
  have hp : ((pitchEnvelopeStep k t).voice k).pitchEnvPhase = ((pitchEnvelopeStep k s).voice k).pitchEnvPhase := by
    simp [pitchEnvelopeStep_voice, hv, apply_ite DrumState.pitchEnvPhase]
  have hi : oscillatorIncrement k (pitchEnvelopeStep k t) = oscillatorIncrement k (pitchEnvelopeStep k s) := by
    have g := (pitchEnvelopeStep_same k s).1
    have g' := h.trans (pitchEnvelopeStep_same k t).1
    rw [oscillatorIncrement, oscillatorIncrement, g.cfg, g'.cfg]
    congr 1
    cases k <;> simp [pitchOf, basePitch, pitchModulation, g.field, g'.field, g.inputs, g'.inputs, g.cfg, g'.cfg, hp]
  rw [updateVoice_voice_same, updateVoice_voice_same, hi, hv, h.cfg]

/-- The voices after step 6 (R188, R189). -/
theorem noiseLevels_voice_bd (s : State) : (hihatNoiseLevel (snareSplit s)).voice .bd = s.voice .bd := rfl

theorem noiseLevels_voice_sd (s : State) : (hihatNoiseLevel (snareSplit s)).voice .sd =
    { s.voice .sd with
      ampLevelNoise := div255 ((s.voice .sd).ampLevel.toNat * (s.field .sd .crunchiness).toNat)
      ampLevel := div255 ((s.voice .sd).ampLevel.toNat * (255 - (s.field .sd .crunchiness).toNat)) } := rfl

theorem noiseLevels_voice_hh (s : State) : (hihatNoiseLevel (snareSplit s)).voice .hh =
    { s.voice .hh with ampLevelNoise := s.field .hh .crunchiness } := rfl

theorem noiseLevels_playing (s : State) : (hihatNoiseLevel (snareSplit s)).playing = s.playing := rfl

/-- The voices and the patch do not depend on the cleared flag UPDMOD starts from. -/
theorem updmodStart_voice (s : State) (k : Instrument) :
    State.voice { s with playing := playingAtUpdmodStart } k = s.voice k := rfl

theorem updmodStart_field (s : State) (k : Instrument) (f : PatchField) :
    State.field { s with playing := playingAtUpdmodStart } k f = s.field k f := rfl

/-- The bass drum's voice after UPDMOD (R180). -/
theorem updmod_voice_bd (s : State) : (updmod s).voice .bd = (updateVoice s .bd).voice .bd := by
  rw [updmod_eq, noiseLevels_voice_bd, updateVoice_voice_ne (by decide), updateVoice_voice_ne (by decide)]
  exact updateVoice_voice_congr (updmodStart_same s).1 .bd (updmodStart_voice s .bd)

/-- The snare's voice as steps 1 to 5 of UPDMOD leave it (R180). -/
theorem updmod_sd_before_split (s : State) :
    (updateVoice (updateVoice (updateVoice { s with playing := playingAtUpdmodStart } .bd) .sd) .hh).voice .sd =
      (updateVoice s .sd).voice .sd := by
  rw [updateVoice_voice_ne (by decide)]
  exact updateVoice_voice_congr ((updmodStart_same s).1.trans (updateVoice_same .bd _).1) .sd
    ((updateVoice_voice_ne (by decide) _).trans (updmodStart_voice s .sd))

/-- The snare's voice after UPDMOD: step 6 splits its level (R180, R188). -/
theorem updmod_voice_sd (s : State) : (updmod s).voice .sd =
    { (updateVoice s .sd).voice .sd with
      ampLevelNoise := div255 (((updateVoice s .sd).voice .sd).ampLevel.toNat * (s.field .sd .crunchiness).toNat)
      ampLevel := div255 (((updateVoice s .sd).voice .sd).ampLevel.toNat * (255 - (s.field .sd .crunchiness).toNat)) } := by
  rw [updmod_eq, noiseLevels_voice_sd, updmod_sd_before_split, updateVoice_field, updateVoice_field, updateVoice_field,
    updmodStart_field]

/-- The hi-hat's voice after UPDMOD: step 6 sets its noise level (R180, R189). -/
theorem updmod_voice_hh (s : State) : (updmod s).voice .hh =
    { (updateVoice s .hh).voice .hh with ampLevelNoise := s.field .hh .crunchiness } := by
  rw [updmod_eq, noiseLevels_voice_hh, updateVoice_field, updateVoice_field, updateVoice_field, updmodStart_field]
  rw [updateVoice_voice_congr (((updmodStart_same s).1.trans (updateVoice_same .bd _).1).trans (updateVoice_same .sd _).1)
    .hh ((updateVoice_voice_ne (by decide) _).trans ((updateVoice_voice_ne (by decide) _).trans (updmodStart_voice s .hh)))]

/-- `playing` after UPDMOD: some amplitude envelope did not finish (R36, R181). -/
theorem updmod_playing (s : State) : (updmod s).playing =
    (!envFinishes (s.voice .bd).ampEnvPhase (s.voice .bd).ampEnvIncrement ||
      !envFinishes (s.voice .sd).ampEnvPhase (s.voice .sd).ampEnvIncrement ||
      !envFinishes (s.voice .hh).ampEnvPhase (s.voice .hh).ampEnvIncrement) := by
  rw [updmod_eq, noiseLevels_playing]
  simp only [updateVoice_playing, updateVoice_voice_ne (show Instrument.hh ≠ .sd by decide),
    updateVoice_voice_ne (show Instrument.hh ≠ .bd by decide), updateVoice_voice_ne (show Instrument.sd ≠ .bd by decide),
    playingAtUpdmodStart, Bool.false_or]
  rfl

/-- The part of a voice SAMPLE never writes. -/
structure DrumState.SameLevels (d e : DrumState) : Prop where
  ampEnvPhase : e.ampEnvPhase = d.ampEnvPhase
  pitchEnvIncrement : e.pitchEnvIncrement = d.pitchEnvIncrement
  ampEnvIncrement : e.ampEnvIncrement = d.ampEnvIncrement
  phaseIncrement : e.phaseIncrement = d.phaseIncrement
  level : e.level = d.level
  ampLevel : e.ampLevel = d.ampLevel
  ampLevelNoise : e.ampLevelNoise = d.ampLevelNoise

theorem DrumState.SameLevels.trans {d e f : DrumState} (h : d.SameLevels e) (g : e.SameLevels f) : d.SameLevels f :=
  ⟨g.1.trans h.1, g.2.trans h.2, g.3.trans h.3, g.4.trans h.4, g.5.trans h.5, g.6.trans h.6, g.7.trans h.7⟩

/-- What one sample period does, all of it (R211 to R213, R221). -/
theorem samplePeriod_eq (s : State) : samplePeriod s =
    { s with
      noise := noiseStep s.noise
      voices := (startPeriod s).voices
      sample := if decimationFires s.sampleCounter s.sampleRate then mixedSample (startPeriod s) else s.sample
      sampleCounter := if decimationFires s.sampleCounter s.sampleRate then 0 else s.sampleCounter + 1
      fifo := s.fifo ++
        [if decimationFires s.sampleCounter s.sampleRate then mixedSample (startPeriod s) else s.sample] } := rfl

/-- One sample period leaves the fixed part and `playing` as they were. -/
theorem samplePeriod_same (s : State) : s.SameFixed (samplePeriod s) ∧ (samplePeriod s).playing = s.playing := by
  rw [samplePeriod_eq]
  exact ⟨⟨rfl, rfl, rfl, rfl, rfl, rfl, rfl, rfl, rfl⟩, rfl⟩

/-- One sample period moves the phases of a voice and nothing else of it (R213). -/
theorem samplePeriod_levels (s : State) (k : Instrument) : (s.voice k).SameLevels ((samplePeriod s).voice k) := by
  rw [samplePeriod_eq]
  cases k <;> exact ⟨rfl, rfl, rfl, rfl, rfl, rfl, rfl⟩

/-- Many sample periods leave the fixed part and `playing` as they were. -/
theorem samplePeriods_same (n : Nat) (s : State) :
    s.SameFixed (samplePeriods n s) ∧ (samplePeriods n s).playing = s.playing := by
  induction n generalizing s with
  | zero => exact ⟨.refl s, rfl⟩
  | succ n ih =>
    have h := samplePeriod_same s
    have g := ih (samplePeriod s)
    exact ⟨h.1.trans g.1, g.2.trans h.2⟩

/-- Many sample periods leave the levels and the increments of a voice as they were. -/
theorem samplePeriods_levels (n : Nat) (s : State) (k : Instrument) :
    (s.voice k).SameLevels ((samplePeriods n s).voice k) := by
  induction n generalizing s with
  | zero => exact ⟨rfl, rfl, rfl, rfl, rfl, rfl, rfl⟩
  | succ n ih => exact (samplePeriod_levels s k).trans (ih (samplePeriod s))

/-- Sample periods are the iterates of one. -/
theorem samplePeriods_eq_iterate (n : Nat) (s : State) : samplePeriods n s = samplePeriod^[n] s := by
  induction n generalizing s with
  | zero => rfl
  | succ n ih => exact ih (samplePeriod s)

end Sys2Proof.Machine
end

