-- ==== Sys2Proof/Laws/Run.lean ====
section
/-! SUPPORT. Runs of the machine and the contracts along them, one step at a time (60_exceptions.md rule R253;
70_reset_and_hazards.md rule R297). -/

namespace Sys2Proof.Machine

/-- A run of any machine ends in a state exactly when its first step does and the rest of the run does. -/
theorem run_succ_eq_next (M : Host.Core) (n : Nat) (s u : M.State) :
    M.run (n + 1) s = .next u ↔ ∃ t, M.step s = .next t ∧ M.run n t = .next u := by
  rcases h : M.step s with t | r | r <;> simp [Host.Core.run, h]

theorem State.runsTo_zero (s t : State) : s.runsTo 0 t ↔ t = s := by
  change Host.Outcome.next s = .next t ↔ _
  rw [Host.Outcome.next.injEq, eq_comm]

/-- A run is one step and the rest of the run. -/
theorem State.runsTo_succ (s u : State) (n : Nat) : s.runsTo (n + 1) u ↔ ∃ t, step s = .next t ∧ t.runsTo n u :=
  run_succ_eq_next Sys2Proof.core n s u

/-- What the contracts of `n + 1` steps say: of the next arrival now, and of the rest after the step. -/
theorem State.keepsContracts_succ {s t : State} {n : Nat} (h : step s = .next t) :
    s.keepsContracts (n + 1) = (s.nextArrivalContractual && t.keepsContracts n) := by
  simp [State.keepsContracts, h]

end Sys2Proof.Machine
end

