-- ==== Sys2Proof/Laws/Scheduler.lean ====
section
/-! SUPPORT. What a scheduler's command does, and the policies one command at a time (30_encoding.md rule R97;
70_reset_and_hazards.md rule R293). -/

namespace Sys2Proof.Machine

@[simp] theorem State.scheduled_cfg (s : State) (r : U8) : (s.scheduled r).cfg = s.cfg := rfl
@[simp] theorem State.scheduled_fifo (s : State) (r : U8) : (s.scheduled r).fifo = s.fifo := rfl
@[simp] theorem State.scheduled_playing (s : State) (r : U8) : (s.scheduled r).playing = s.playing := rfl
@[simp] theorem State.scheduled_freeCapacity (s : State) (r : U8) : (s.scheduled r).freeCapacity = s.freeCapacity := rfl
@[simp] theorem State.scheduled_writable (s : State) (r : U8) : (s.scheduled r).inputs.writable = s.freeCapacity := rfl

/-- Sample periods push one sample each (R221). -/
theorem samplePeriods_fifo_length (n : Nat) (s : State) : (samplePeriods n s).fifo.length = s.fifo.length + n := by
  induction n generalizing s with
  | zero => rfl
  | succ n ih =>
    have h := ih (samplePeriod s)
    have g : (samplePeriod s).fifo.length = s.fifo.length + 1 := by simp [samplePeriod_eq]
    rw [samplePeriods]
    omega

/-- A block pushes BLOCK_SIZE samples and leaves the configuration (R71, R39). -/
theorem renderBlock_fifo_length (s : State) : (renderBlock s).fifo.length = s.fifo.length + s.cfg.blockSize := by
  have h := samplePeriods_fifo_length s.cfg.blockSize (updmod s)
  rw [(updmod_same s).2.fifo] at h
  exact h

theorem renderBlock_cfg (s : State) : (renderBlock s).cfg = s.cfg :=
  ((updmod_same s).1.trans (samplePeriods_same s.cfg.blockSize (updmod s)).1).cfg

/-- A scheduler's RENDER with room renders a block, which takes BLOCK_SIZE places (R70, R210). -/
theorem scheduled_render {s : State} (h : s.cfg.blockSize ≤ s.freeCapacity) (r : U8) :
    exec .render (s.scheduled r) = .next (renderBlock (s.scheduled r)) ∧
      (renderBlock (s.scheduled r)).freeCapacity + s.cfg.blockSize = s.freeCapacity := by
  refine ⟨execRender_eq_next.2 ⟨le_refl s.freeCapacity, .inl ⟨h, rfl⟩⟩, ?_⟩
  simp only [State.freeCapacity, renderBlock_cfg, renderBlock_fifo_length, State.scheduled_cfg, State.scheduled_fifo] at *
  omega

/-- A scheduler's SILENCE fills the sink and leaves `playing` (R70, R224). -/
theorem scheduled_silence (s : State) (r : U8) :
    ∃ t, exec .silence (s.scheduled r) = .next t ∧ t.freeCapacity = 0 ∧ t.playing = s.playing := by
  refine ⟨_, execSilence_eq_next.2 ⟨le_refl s.freeCapacity, rfl⟩, ?_, rfl⟩
  change s.cfg.outCapacity - (s.fifo ++ List.replicate s.freeCapacity _).length = 0
  simp only [List.length_append, List.length_replicate, State.freeCapacity]
  omega

/-- The reference policy issues RENDER exactly while playing and room (R293, D35). -/
theorem policyCommand_eq_render {s : State} :
    s.policyCommand = some .render ↔ s.playing = true ∧ s.cfg.blockSize ≤ s.freeCapacity := by
  unfold State.policyCommand
  split_ifs <;> simp_all

/-- It issues SILENCE exactly while not playing and room (R293). -/
theorem policyCommand_eq_silence {s : State} : s.policyCommand = some .silence ↔ s.playing = false ∧ 0 < s.freeCapacity := by
  unfold State.policyCommand
  split_ifs <;> simp_all

/-- It issues nothing exactly without room for what it would issue (R293). -/
theorem policyCommand_eq_none {s : State} :
    s.policyCommand = none ↔
      (s.playing = true ∧ s.freeCapacity < s.cfg.blockSize) ∨ (s.playing = false ∧ s.freeCapacity = 0) := by
  unfold State.policyCommand
  split_ifs <;> simp_all
  omega

end Sys2Proof.Machine
end

