-- ==== Sys2Proof/Machine/Listing.lean ====
section
/-! DEFINITION. Command listings (30_encoding.md rule R96): the text of a command, and the DRAIN directive. -/

namespace Sys2Proof

/-- An operand in decimal (R96). -/
def operandText {n : Nat} (v : BitVec n) : String := toString v.toNat

/-- The instrument operand as `BD`, `SD` or `HH` (R96). -/
def instrumentText (i : BitVec 2) : String :=
  match i.toNat with
  | 0 => "BD"
  | 1 => "SD"
  | 2 => "HH"
  | n => toString n

/-- One command of a listing: the mnemonic, then the operands the row lists, separated by a comma (R96). -/
def Instr.listing : Instr → String
  | .nop => "NOP"
  | .trig i v => "TRIG " ++ instrumentText i ++ ", " ++ operandText v
  | .setcc cc v => "SETCC " ++ operandText cc ++ ", " ++ operandText v
  | .morph i v => "MORPH " ++ instrumentText i ++ ", " ++ operandText v
  | .setbw b => "SETBW " ++ operandText b
  | .setbal m => "SETBAL " ++ operandText m
  | .render => "RENDER"
  | .silence => "SILENCE"
  | .idle => "IDLE"

/-- The directive `DRAIN n`: the n oldest samples leave the sink (R96). -/
def drainDirective (n : Nat) : List Machine.Event := List.replicate n .drain

end Sys2Proof
end

