-- ==== Sys2Proof/Tests/Slice0.lean ====
section
/-! SUPPORT. Tests. Every expected value is the spec's: the words of 30_encoding.md rule R93, and the vectors of
95_test_vectors.md named at each test. `witness_<Name>` shows values that meet all the hypotheses of `Obligations.<Name>`,
for each of its clauses where it has several. -/

namespace Sys2Proof.Tests

open Sys2Proof.Machine

/-! ### Well-formedness: one ill-formed term for each check -/

theorem test_wf_refuses_trig_of_instrument_three : (Instr.trig 3 255).wf = false := by decide

theorem test_wf_refuses_morph_of_instrument_three : (Instr.morph 3 0).wf = false := by decide

theorem test_wf_accepts_legal_operands :
    (Instr.trig 2 0).wf = true ∧ (Instr.morph 0 255).wf = true ∧ (Instr.setcc 255 255).wf = true := by decide

theorem test_refcfg_wf : Config.refcfg.wf = true := by decide +kernel

/-- One value out of order for each condition of R8. -/
theorem test_config_wf_refuses :
    ({ Config.refcfg with blockSize := 0 } : Config).wf = false ∧
    ({ Config.refcfg with blockSize := 33 } : Config).wf = false ∧
    ({ Config.refcfg with wavSine := tableOf 257 (fun i => if i = 256 then 128 else 0) } : Config).wf = false ∧
    ({ Config.refcfg with phaseInc := tableOf 257 (fun i => if i = 0 then 1 else 0) } : Config).wf = false ∧
    ({ Config.refcfg with ccMap := tableOf 15 (fun _ => 6) } : Config).wf = false ∧
    ({ Config.refcfg with hhPos := 0 } : Config).wf = false ∧
    ({ Config.refcfg with hhNeg := 0 } : Config).wf = false := by decide +kernel

/-! ### Decoding: each row's word written out bit by bit from R90 and R93 (`op`, `a`, `b`) -/

theorem test_decode_nop : decode 0b000000000000000000000000#24 = .ok .nop := by decide

theorem test_decode_trig : decode 0b000000010000001011111111#24 = .ok (.trig 2 255) := by decide

theorem test_decode_setcc : decode 0b000000100001111001111111#24 = .ok (.setcc 30 127) := by decide

theorem test_decode_morph : decode 0b000000110000000101100000#24 = .ok (.morph 1 0x60) := by decide

theorem test_decode_setbw : decode 0b000001000000000011100111#24 = .ok (.setbw 231) := by decide

theorem test_decode_setbal : decode 0b000001010000000011001000#24 = .ok (.setbal 200) := by decide

theorem test_decode_render : decode 0b000001100000000000000000#24 = .ok .render := by decide

theorem test_decode_silence : decode 0b000001110000000000000000#24 = .ok .silence := by decide

theorem test_decode_idle : decode 0b000010000000000000000000#24 = .ok .idle := by decide

/-- Instrument 3, a reserved instrument, an unused field that is not zero, a reserved opcode (R94). -/
theorem test_decode_refuses :
    decode 0x0303FF#24 = .error .illegalInstrument ∧ decode 0x03FF00#24 = .error .reservedInstrument ∧
    decode 0x000001#24 = .error .unusedFieldNotZero ∧ decode 0x080100#24 = .error .unusedFieldNotZero ∧
    decode 0x090000#24 = .error .reservedOpcode ∧ decode 0xFF0000#24 = .error .reservedOpcode := by decide

theorem test_decode_bytes :
    decodeBytes [0x01, 0x02, 0xFF, 0x06] = .ok (.trig 2 255, [0x06]) ∧ decodeBytes [0x01, 0x02] = .error .truncated := by
  decide

theorem test_decode_table_word :
    decodeTableWord 24 0x0102FF = some (.trig 2 255) ∧ decodeTableWord 24 0x010300 = none := by decide

/-- 95_test_vectors.md section 6, P1: the listing of `TRIG 0, 255`, its instrument written by name (R96). -/
theorem test_listing : (Instr.trig 0 255).listing = "TRIG BD, 255" := by decide

/-! ### One command on a small state: 95_test_vectors.md sections 4 to 6 -/

/-- A command answers a next state of which `p` holds. -/
def yields (o : Host.Outcome State Fault Refusal) (p : State → Bool) : Bool :=
  match o with
  | .next t => p t
  | .fault _ => false
  | .refused _ => false

/-- The reset state with the inputs of a command and a patch of the bass drum: P1 (section 6). -/
def bassPatch : State :=
  { State.reset with patch := [(0, 60), (1, 18), (2, 104), (3, 120), (5, 255)], inputs := ⟨1000, 0x5A, 32⟩ }

/-- The bass drum's voice after the TRIG of P1. -/
def struck : State :=
  { bassPatch with
    voices := ⟨{ DrumState.zero with pitchEnvIncrement := 7616, ampEnvIncrement := 4352, level := 254 }, DrumState.zero,
      DrumState.zero⟩
    playing := true
    lastEventTime := 1000 }

/-- The three `level` bytes. -/
def levels (s : State) : List Nat := [(s.patchByte 5).toNat, (s.patchByte 11).toNat, (s.patchByte 17).toNat]

/-- P1, after TRIG. -/
theorem test_trig : yields (execTrig 0 255 bassPatch) (fun t =>
    t.voices == struck.voices && t.playing && t.lastEventTime == 1000 && t.patch == bassPatch.patch) = true := by
  decide

/-- The same word through the port (R91, R93). -/
theorem test_step_runs_the_fetched_word :
    yields (step (bassPatch.withFetchWord 24 0x0100FF)) (fun t =>
    t.voices == struck.voices && t.playing && t.lastEventTime == 1000 && t.patch == bassPatch.patch) = true := by
  decide +kernel

/-- Section 4, MORPH: v = 255, i = 2, `level` unchanged. -/
theorem test_morph : yields (execMorph 2 255 State.reset) (fun t =>
    t.patch == [(12, 249), (15, 246), (16, 197)]) = true := by decide

/-- Section 4, MORPH: v = 96, i = 0, the bass drum's `level` unchanged. -/
theorem test_morph_blend : yields (execMorph 0 96 bassPatch) (fun t =>
    t.patch == [(0, 60), (1, 25), (2, 112), (3, 140), (4, 64), (5, 255)]) = true := by decide

/-- Section 4, SETCC: cc = 29 writes 254 at offset 15; cc = 31 writes nothing. -/
theorem test_setcc :
    yields (execSetcc 29 0x7F State.reset) (fun t => t.patch == [(15, 254)]) = true ∧
    yields (execSetcc 31 0x7F bassPatch) (fun t => t.patch == bassPatch.patch) = true := by decide

/-- Section 4, SETCC 16 with bit 7 set: dropped, and the byte 0 is no longer listed. -/
theorem test_setcc_drops_bit_seven : yields (execSetcc 16 0x80 bassPatch) (fun t =>
    t.patch == [(1, 18), (2, 104), (3, 120), (5, 255)]) = true := by decide

/-- Section 4, SETBW. -/
theorem test_setbw : (decimationOf 0, decimationOf 8, decimationOf 127, decimationOf 231, decimationOf 255) =
    (31, 30, 16, 3, 0) := by decide

/-- Section 4, SETBAL. -/
theorem test_setbal :
    yields (execSetbal 127 State.reset) (fun t => levels t == [255, 254, 127]) = true ∧
    yields (execSetbal 200 State.reset) (fun t => levels t == [111, 255, 127]) = true := by decide

/-- Section 4, IDLE: the clock behind the last event wraps. -/
theorem test_idle :
    yields (execIdle { bassPatch with lastEventTime := 100, inputs := ⟨50, 0, 32⟩ }) (fun t =>
      t.responses == [0xFFFFFFCE]) = true := by decide

theorem test_nop : execNop struck = .next struck := rfl

/-- P1, first RENDER: the samples pushed and the bass drum's voice. -/
theorem test_render : yields (execRender struck) (fun t =>
    t.fifo == [193, 235, 242, 210, 150, 81, 29, 10] && t.noise == 232 && t.playing &&
      t.voices.bd == ⟨49248, 7616, 4352, 7616, 4352, 6156, 254, 236, 0⟩) = true := by decide

/-- "RENDER from reset" (section 5). -/
theorem test_render_from_reset : yields (execRender State.reset) (fun t =>
    t.fifo == List.replicate 8 128 && t.noise == 232 && t.voices.hh.phase == 1200 && t.voices.hh.pitchEnvPhase == 800 &&
      !t.playing) = true := by decide +kernel

/-- Section 5, SILENCE: (128, 255, 7) and (128, 0, 32). -/
theorem test_silence :
    yields (execSilence { State.reset with inputs := ⟨0, 0, 7⟩ }) (fun t =>
      t.fifo == List.replicate 7 128 && t.sample == 128 && t.fadeCounter == 254) = true ∧
    yields (execSilence { State.reset with fadeCounter := 0 }) (fun t =>
      t.fifo == List.replicate 32 127 && t.sample == 127 && t.fadeCounter == 255) = true := by decide

/-- Section 4, UPDMOD case M8: the hi-hat. -/
theorem test_updmod_hihat :
    (updmod { State.reset with
      patch := [(12, 255), (13, 77), (14, 99), (15, 255), (16, 9), (17, 255)]
      voices := ⟨DrumState.zero, DrumState.zero,
        { DrumState.zero with pitchEnvIncrement := 5728, ampEnvIncrement := 32, level := 254 }⟩ }).voices.hh =
      ⟨0, 0, 32, 10300, 32, 15450, 254, 252, 9⟩ := by decide

/-- Section 4, UPDMOD case M5: the snare's pitch sum wraps. -/
theorem test_updmod_snare :
    (updmod { State.reset with
      patch := [(6, 250), (8, 255), (11, 255)]
      voices := ⟨DrumState.zero,
        { DrumState.zero with pitchEnvIncrement := 8192, ampEnvIncrement := 8192, level := 254 }, DrumState.zero⟩ }).voices.sd
      = ⟨0, 8192, 8192, 8192, 8192, 8745, 254, 221, 0⟩ := by decide

/-- Section 5, the hi-hat's raw level: rows (P, E, noise, c) = (F3, D7, 02, 0), (84, 28, AF, 197), (B0, 75, 1B, 197). -/
theorem test_hihat_raw :
    hihatRaw Config.refcfg (hihatInverted 0xF300 0xD700) 0x02 0 = -64 ∧
    hihatRaw Config.refcfg (hihatInverted 0x8400 0x2800) 0xAF 197 = -67 ∧
    hihatRaw Config.refcfg (hihatInverted 0xB000 0x7500) 0x1B 197 = 10 := by decide

/-- Section 3: `smul8`, `mix8`, `sat8`, `envadv`, `interp16` at rows where a truncation or a wrap would show. -/
theorem test_arithmetic :
    smul8 (-1) 1 = -1 ∧ smul8 (-127) 114 = -57 ∧ mix8 20 10 255 = 10 ∧ mix8 1 0 1 = 0 ∧ sat8 (-1) = 0 ∧ sat8 632 = 255 ∧
    envadv 61184 4352 = (65535, 0, true) ∧ envadv 32768 32767 = (65535, 32767, false) ∧
    interp16 Config.refcfg.phaseInc 0x9768 = 6156 ∧ interp16 Config.refcfg.phaseInc 0xFFFF = 10339 := by decide

/-! ### Witnesses: values that meet the hypotheses of each obligation -/

/-- One arrival and then the `rest`, on the state after the TRIG of P1. -/
def arriving (e : Event) (rest : List Event) : State := { struck with arrivals := e :: rest }

theorem witness_DecodeOfEncode : (Instr.trig 2 255).wf = true ∧ (Instr.morph 0 0).wf = true := by decide

theorem witness_EncodeOfDecode : decode 0x0102FF#24 = .ok (.trig 2 255) := by decide

theorem witness_DecoderFollowsOpcodeMap :
    (∃ r ∈ opcodeMap, r.selects 0x0102FF#24 = true) ∧ (∀ r ∈ opcodeMap, r.selects 0x010300#24 = false) := by decide

theorem witness_OpcodeRowsDisjoint :
    ∃ r ∈ opcodeMap, ∃ r' ∈ opcodeMap, r.selects 0x0302FF#24 = true ∧ r'.selects 0x0302FF#24 = true := by decide

theorem witness_ByteStreamRoundTrip : (Instr.setcc 255 1).wf = true := by decide

theorem witness_StepRunsDecodedCommand :
    struck.cfg.wf = true ∧
    (arriving (.command 0x060000 7 0xC3 none) [.rst]).arrivals = .command 0x060000 7 0xC3 none :: [.rst] ∧
    decode 0x060000#24 = .ok .render := ⟨test_refcfg_wf, rfl, by decide⟩

/-- Instrument 3, a reserved instrument and a reserved opcode: both outcomes of the statement. -/
theorem witness_StepRefusesUnlistedWords :
    struck.cfg.wf = true ∧
    (∀ row ∈ opcodeMap, row.selects 0x010300#24 = false ∧ row.selects 0x010400#24 = false ∧
      row.selects 0x090300#24 = false) ∧
    (arriving (.command 0x010300 0 0 none) []).arrivals = .command 0x010300 0 0 none :: [] := ⟨test_refcfg_wf, by decide, rfl⟩

theorem witness_StepRefusesIllFormedConfiguration :
    ¬ (1 ≤ { struck with cfg := { struck.cfg with blockSize := 0 } }.cfg.blockSize) := by decide

theorem witness_StepWaitsForArrivals : struck.cfg.wf = true ∧ struck.arrivals = [] := ⟨test_refcfg_wf, rfl⟩

/-- An empty sink, and one that holds two samples. -/
theorem witness_DrainRemovesOldestSample :
    (arriving .drain [.drain]).cfg.wf = true ∧ (arriving .drain [.drain]).arrivals = .drain :: [.drain] ∧
    (arriving .drain [.drain]).fifo = [] ∧
    ({ arriving .drain [.drain] with fifo := [193, 235] } : State).fifo = 193 :: [235] := ⟨test_refcfg_wf, rfl, rfl, rfl⟩

theorem witness_HardResetRestoresRegisters :
    (arriving .rst []).cfg.wf = true ∧ (arriving .rst []).arrivals = .rst :: [] := ⟨test_refcfg_wf, rfl⟩

/-- The least and the largest report with room for a block, and a random byte that is not 0. -/
theorem witness_FirstRenderAfterResetIsCentred :
    Config.refcfg.wf = true ∧
    Config.refcfg.blockSize ≤ (⟨1000, 0x5A, 8⟩ : Inputs).writable ∧
    (⟨1000, 0x5A, 8⟩ : Inputs).writable ≤ Config.refcfg.outCapacity ∧
    Config.refcfg.blockSize ≤ (⟨0, 0xFF, 32⟩ : Inputs).writable ∧
    (⟨0, 0xFF, 32⟩ : Inputs).writable ≤ Config.refcfg.outCapacity :=
  ⟨test_refcfg_wf, by decide, by decide, by decide, by decide⟩

/-- The largest honest report. -/
theorem witness_LegalCommandsComplete :
    Instr.wf .render = true ∧ struck.inputs.writable ≤ struck.freeCapacity ∧
    struck.inputs.writable = struck.freeCapacity := by decide

/-- The least over-report. -/
theorem witness_ContractViolationsRefused :
    ({ struck with inputs := ⟨0, 0, 33⟩ } : State).freeCapacity < ({ struck with inputs := ⟨0, 0, 33⟩ } : State).inputs.writable := by
  decide

/-- Every instrument. -/
theorem witness_TrigLatchesNote :
    (0#2).toNat = Instrument.bd.index.val ∧ (1#2).toNat = Instrument.sd.index.val ∧
    (2#2).toNat = Instrument.hh.index.val := by decide

/-- The first and the last position. -/
theorem witness_MorphBlendsPresets :
    (2#2).toNat = Instrument.hh.index.val ∧ (0#8).toNat = 64 * (0 : Fin 4).val + (0 : Fin 64).val ∧
    (255#8).toNat = 64 * (3 : Fin 4).val + (63 : Fin 64).val ∧ struck.patch.wf = true := by decide

theorem witness_MorphReproducesPresets :
    (0#2).toNat = Instrument.bd.index.val ∧ (0#8).toNat = 64 * (0 : Fin 4).val ∧
    (192#8).toNat = 64 * (3 : Fin 4).val ∧ struck.patch.wf = true := by decide

/-- REFCFG has a rising and a falling field between presets 3 and 4: both branches of the conclusion. -/
theorem witness_MorphTopPositionError :
    (0#2).toNat = Instrument.bd.index.val ∧ struck.patch.wf = true ∧
    ((Config.refcfg.preset.get 0).get 3).get 0 < ((Config.refcfg.preset.get 0).get 4).get 0 ∧
    ((Config.refcfg.preset.get 0).get 4).get 1 < ((Config.refcfg.preset.get 0).get 3).get 1 := by decide

/-- The first and the last mapped controller, and the numbers beside them. -/
theorem witness_SetccWritesMappedByte :
    (16#8).toNat = 16 + (0 : Fin 15).val ∧ (30#8).toNat = 16 + (14 : Fin 15).val ∧ (15#8).toNat < 16 ∧ 30 < (31#8).toNat ∧
    struck.patch.wf = true := by decide

/-- Both sides of the mapped controllers, and a sink one place short of a block. -/
theorem witness_IgnoredCommandsChangeNothing :
    (15#8).toNat < 16 ∧ 30 < (31#8).toNat ∧
    ({ struck with inputs := ⟨0, 0, 7⟩ } : State).inputs.writable ≤ struck.freeCapacity ∧
    ({ struck with inputs := ⟨0, 0, 7⟩ } : State).inputs.writable < struck.cfg.blockSize := by decide

theorem witness_SetbalSetsLevels : struck.patch.wf = true ∧ (127#8).toNat < 128 ∧ ¬ (128#8).toNat < 128 := by decide

/-- A patch byte that each of the three writers changes. -/
theorem witness_PatchWriters :
    struck.patch.wf = true ∧
    yields (exec (.morph 0 96) struck) (fun t => t.patchByte 1 != struck.patchByte 1) = true ∧
    yields (exec (.setcc 16 0) struck) (fun t => t.patchByte 0 != struck.patchByte 0) = true ∧
    yields (exec (.setbal 64) struck) (fun t => t.patchByte 11 != struck.patchByte 11) = true := by decide

/-- A command that changes each group of registers. -/
theorem witness_RegisterWriters :
    yields (exec (.setbw 0) struck) (fun t => t.sampleRate != struck.sampleRate) = true ∧
    yields (exec (.trig 1 9) { struck with inputs := ⟨2000, 0, 32⟩ }) (fun t =>
      t.lastEventTime != struck.lastEventTime && decide (t.voices ≠ struck.voices)) = true ∧
    yields (exec .render struck) (fun t =>
      t.noise != struck.noise && t.sample != struck.sample && decide (t.voices ≠ struck.voices) && t.fifo != struck.fifo) =
        true ∧
    yields (exec .idle struck) (fun t => t.responses != struck.responses) = true := by decide +kernel

/-- 65536 / 4352 is not a whole number and 65536 / 8192 is: the last unfinished and the first finished advance of each. -/
theorem witness_EnvelopeFinishesAtCeiling :
    4352#16 ≠ 0#16 ∧ 15 * (4352#16).toNat < 65536 ∧ 65536 ≤ 16 * (4352#16).toNat ∧
    7 * (8192#16).toNat < 65536 ∧ 65536 ≤ 8 * (8192#16).toNat := by decide

/-- The reset state's stale hi-hat increment replaced by what TRIG would load. -/
theorem witness_UpdmodIgnoresStaleRegisters :
    let vs : Voices := { struck.voices with
      bd := { struck.voices.bd with phaseIncrement := 1, ampLevel := 2 }
      hh := { struck.voices.hh with pitchEnvIncrement := 5728 } }
    vs ≠ struck.voices ∧
    (∀ k, (vs.get k).phase = (struck.voice k).phase ∧ (vs.get k).pitchEnvPhase = (struck.voice k).pitchEnvPhase ∧
      (vs.get k).ampEnvPhase = (struck.voice k).ampEnvPhase ∧
      (vs.get k).ampEnvIncrement = (struck.voice k).ampEnvIncrement ∧ (vs.get k).level = (struck.voice k).level) ∧
    (∀ k, k ≠ .hh → (vs.get k).pitchEnvIncrement = (struck.voice k).pitchEnvIncrement) ∧
    (vs.get .bd).ampLevelNoise = (struck.voice .bd).ampLevelNoise := by
  refine ⟨by decide, fun k => ?_, fun k hk => ?_, rfl⟩
  · cases k <;> exact ⟨rfl, rfl, rfl, rfl, rfl⟩
  · cases k <;> first | rfl | exact absurd rfl hk

/-- The bass drum struck while the other two voices are finished. -/
theorem witness_NotePlaysForItsEnvelope :
    let s : State := { bassPatch with voices := ⟨DrumState.zero, { DrumState.zero with ampEnvPhase := 0xFFFF },
      { DrumState.zero with ampEnvPhase := 0xFFFF }⟩ }
    (0#2).toNat = Instrument.bd.index.val ∧ (∀ j, j ≠ Instrument.bd → (s.voice j).ampFinished) ∧
    exec (.trig 0 255) s = .next (trigger 255 .bd s) ∧
    ((trigger 255 .bd s).voice .bd).ampEnvIncrement ≠ 0 ∧ [0x5A#8, 0x11#8] ≠ [] := by
  refine ⟨rfl, fun j hj => ?_, rfl, by decide, by decide⟩
  cases j
  · exact absurd rfl hj
  · exact ⟨rfl, rfl⟩
  · exact ⟨rfl, rfl⟩

/-- The least room for a block, and one place less. -/
theorem witness_RenderRunsOneBlock :
    let s : State := { struck with inputs := ⟨0, 0, 8⟩ }
    let u : State := { struck with inputs := ⟨0, 0, 7⟩ }
    s.inputs.writable ≤ s.freeCapacity ∧ s.cfg.blockSize ≤ s.inputs.writable ∧
    u.inputs.writable ≤ u.freeCapacity ∧ u.inputs.writable < u.cfg.blockSize := by decide

/-- The last room for a block. -/
theorem witness_RenderFrame :
    let s : State := { struck with fifo := List.replicate 24 128, inputs := ⟨0, 0, 8⟩ }
    s.inputs.writable ≤ s.freeCapacity ∧ s.cfg.blockSize ≤ s.inputs.writable := by decide

/-- Even and odd noise, at both ends of each. -/
theorem witness_HihatRawLevel :
    (0#8).toNat % 2 = 0 ∧ (254#8).toNat % 2 = 0 ∧ (1#8).toNat % 2 = 1 ∧ (255#8).toNat % 2 = 1 := by decide

/-- `sample_rate` 3 and 0. -/
theorem witness_HeldSampleChangesOncePerPeriod :
    struck.sampleCounter = 0 ∧ ({ struck with sampleRate := 3 } : State).sampleRate.toNat < 255 ∧
    3 ≤ ({ struck with sampleRate := 3 } : State).sampleRate.toNat ∧
    4 = ({ struck with sampleRate := 3 } : State).sampleRate.toNat + 1 ∧ 1 = struck.sampleRate.toNat + 1 := by
  decide

theorem witness_SilentVoicesMixToCentre :
    (∀ k, (struck.voice k).ampLevel = 0) ∧ (struck.voice .sd).ampLevelNoise = 0 :=
  ⟨fun k => by cases k <;> rfl, rfl⟩

/-- The counter at 0 with the held sample above, below and at the target: the three outcomes of the conclusion. -/
theorem witness_SilenceFadesAndFills :
    let s : State := { struck with fadeCounter := 0 }
    s.inputs.writable ≤ s.freeCapacity ∧ s.fadeCounter = 0 ∧ s.cfg.silenceTarget.toNat < s.sample.toNat ∧
    ({ s with sample := 0 } : State).sample.toNat = s.cfg.silenceTarget.toNat ∧
    (127#8).toNat < ({ s.cfg with silenceTarget := 128 } : Config).silenceTarget.toNat := by decide

/-- SILENCE after SILENCE on a full sink, the counter going down from 255. -/
theorem witness_SilenceStepsEvery256Calls :
    let v : Nat → State := fun j => { struck with fadeCounter := BitVec.ofNat 8 (255 - j), inputs := ⟨0, 0, 0⟩ }
    (v 0).fadeCounter = 255 ∧ (∀ j, j < 256 → (v j).inputs.writable ≤ (v j).freeCapacity) ∧
    (∀ j t, j < 255 → exec .silence (v j) = .next t →
      (v (j + 1)).sample = t.sample ∧ (v (j + 1)).fadeCounter = t.fadeCounter ∧ (v (j + 1)).cfg = t.cfg) := by
  refine ⟨rfl, fun j _ => Nat.zero_le _, fun j t hj h => ?_⟩
  obtain ⟨-, rfl⟩ := execSilence_eq_next.1 h
  have counter : ∀ i : Fin 255, BitVec.ofNat 8 (255 - i.val) ≠ 0#8 ∧
      BitVec.ofNat 8 (255 - (i.val + 1)) = BitVec.ofNat 8 (255 - i.val) - 1 := by decide +kernel
  exact ⟨(if_neg (counter ⟨j, hj⟩).1).symm, (counter ⟨j, hj⟩).2, rfl⟩

theorem struck_good : struck.Good :=
  ⟨by decide, by decide, by decide, by decide, fun k => by cases k <;> decide, fun k => by cases k <;> decide⟩

/-- A RENDER accepted in a good state. -/
theorem witness_StepKeepsGood :
    let s := struck.withFetchWord 24 0x060000
    s.Good ∧ yields (step s) (fun t => t.fifo.length == 8) = true :=
  ⟨⟨struck_good.patch, struck_good.sink, struck_good.sampleRate, struck_good.sampleCounter, struck_good.level,
    struck_good.ampLevel⟩, by decide +kernel⟩

theorem witness_StepKeepsConfiguration : step struck = .next struck := by
  rw [step, stepConfigured, if_pos (show struck.cfg.wf = true from test_refcfg_wf)]; rfl

theorem witness_OutputOnlyGrows :
    yields (step (struck.withFetchWord 24 0x080000)) (fun t => t.responses == [0]) = true := by decide +kernel

/-- A RENDER with the sink's own report, a SILENCE with a lower one of the environment's, a DRAIN, `rst`, and then nothing. -/
theorem witness_ContractualRunsAreNeverRefused :
    let s := arriving (.command 0x060000 7 0xC3 none) [.command 0x070000 8 0 (some 3), .drain, .rst]
    s.cfg.wf = true ∧ s.keepsContracts 5 = true := ⟨test_refcfg_wf, by decide +kernel⟩

/-- An over-report and a DRAIN of an empty sink break a contract. -/
theorem test_keepsContracts_refuses :
    (arriving (.command 0x070000 8 0 (some 33)) []).keepsContracts 1 = false ∧
    (arriving .drain []).keepsContracts 1 = false ∧ (arriving (.command 0x090000 8 0 none) []).keepsContracts 1 = false := by
  decide

theorem witness_PlayingIsNeverRead : exec .idle struck = .next (struck.respond 0) := rfl

theorem witness_UnreadRegistersAreNotHeard :
    struck.patch.wf = true ∧ yields (exec .render struck) (fun t => t.fifo.length == 8) = true := by decide

/-- Two states of one configuration that differ in the patch. -/
theorem witness_InitIgnoresEarlierState :
    struck.cfg = State.reset.cfg ∧ struck.patch.wf = true ∧ State.reset.patch.wf = true ∧
    struck.patch ≠ State.reset.patch := by
  refine ⟨rfl, by decide, by decide, by decide⟩

/-- R293: a note whose envelope finishes in the next block, with room for three. The policy renders that block and then fills
the sink by SILENCE; SERVICE by its expansion (R97) renders all three. -/
theorem test_servicePolicy :
    let s : State := { struck with
      voices := { struck.voices with bd := { struck.voices.bd with ampEnvIncrement := 0 } }
      fifo := List.replicate 6 128 }
    yields (servicePolicy (fun _ => 0) s) (fun t => t.fadeCounter == 254 && t.noise == 232 && t.fifo.length == 32) = true ∧
    yields (service (fun _ => 0) s) (fun t => t.fadeCounter == 255 && t.fifo.length == 30) = true := by decide

theorem witness_RenderAllStopsWithoutRoom : 1 ≤ struck.cfg.blockSize := by decide

/-- A write of the last patch byte, and of no byte beyond it. -/
theorem witness_SpacesAreDisjointAndBounded :
    struck.patch.wf = true ∧ struck.memWrite .patch 17 9 = some (struck.writePatch 17 9) ∧
    struck.memWrite .patch 18 9 = none := ⟨rfl, rfl, rfl⟩

/-- A rising and a falling pair; the first and the last interval of a table, at a low byte of 0 and above it; neighbours 127
apart. -/
theorem witness_Mix8Interpolates :
    (10#8).toNat < (20#8).toNat ∧ (0#8).toNat < (255#8).toNat ∧
    (0 : Fin 256).val = (0x0000#16).toNat / 256 ∧ (0x0000#16).toNat % 256 = 0 ∧
    (255 : Fin 256).val = (0xFFFF#16).toNat / 256 ∧ (0#8).toNat ≤ (127#8).toNat + 127 ∧
    (127#8).toNat ≤ (0#8).toNat + 127 := by decide

/-- Section 3, `interp8`: 0x180C on the waveform; 0xFF80 where T[255] = 10 and T[256] = 250 (index 256 is read). -/
theorem test_interp8 :
    interp8 Config.refcfg.wavSine 0x180C = 199 ∧
    interp8 (tableOf 257 (fun i => if i = 255 then 10 else if i = 256 then 250 else 0)) 0xFF80 = 130 := by decide

/-- The first and the last interval of REFCFG's pitch table. -/
theorem witness_Interp16Interpolates :
    (0 : Fin 256).val = (0x00FF#16).toNat / 256 ∧ (255 : Fin 256).val = (0xFFFF#16).toNat / 256 ∧
    (Config.refcfg.phaseInc.get 0).toNat ≤ (Config.refcfg.phaseInc.get 1).toNat ∧
    (Config.refcfg.phaseInc.get 255).toNat ≤ (Config.refcfg.phaseInc.get 256).toNat := by decide

end Sys2Proof.Tests
end

section
/-! PROOF. When a step is refused for its configuration (00_scope.md rule R8; 60_exceptions.md rules R251 and R253): the
conditions of R8 entry by entry, and the refusals of everything a well-formed configuration lets run. -/

namespace Sys2Proof

/-- `neighbours` is the library's chain of related elements. -/
theorem neighbours_iff_isChain {α : Type} (related : α → α → Bool) (l : List α) :
    neighbours related l = true ↔ l.IsChain (fun x y => related x y = true) := by
  induction l with
  | nil => simp [neighbours]
  | cons x l ih =>
    cases l with
    | nil => simp [neighbours]
    | cons y l => simp [neighbours, ih]

/-- Neighbouring entries of a table, by their indices. -/
theorem Table.neighbours_iff {α : Type} {n : Nat} (related : α → α → Bool) (T : Table α (n + 1)) :
    neighbours related T.entries = true ↔ ∀ i : Fin n, related (T.get i.castSucc) (T.get i.succ) = true := by
  rw [neighbours_iff_isChain, List.isChain_iff_getElem]
  constructor
  · intro h i
    exact h i.val (by rw [T.entries_length]; exact Nat.succ_lt_succ i.isLt)
  · intro h i hi
    exact h ⟨i, by rw [T.entries_length] at hi; exact Nat.lt_of_succ_lt_succ hi⟩

/-- The conditions of R8 as its table writes them. -/
theorem Config.wf_iff (c : Config) :
    c.wf = true ↔
      1 ≤ c.blockSize ∧ c.blockSize ≤ c.outCapacity ∧
      (∀ i : Fin 256, (c.wavSine.get i.succ).toNat ≤ (c.wavSine.get i.castSucc).toNat + 127 ∧
        (c.wavSine.get i.castSucc).toNat ≤ (c.wavSine.get i.succ).toNat + 127) ∧
      (∀ i : Fin 256, (c.phaseInc.get i.castSucc).toNat ≤ (c.phaseInc.get i.succ).toNat) ∧
      (c.ccMap.get 0).val ≤ 5 ∧ 1 ≤ c.hhPos.toInt ∧ c.hhNeg.toInt ≤ -1 := by
  simp only [Config.wf, Bool.and_eq_true, decide_eq_true_eq, Table.neighbours_iff, narrowStep, notFalling, and_assoc,
    and_comm (a := (c.wavSine.get (Fin.succ _)).toNat ≤ _)]

end Sys2Proof

namespace Sys2Proof.Machine

/-- `onInstrument` refuses operand 3, by V1's name (R94). -/
theorem onInstrument_eq_refused {i : BitVec 2} {s : State} {act : Instrument → State → State} {r : Refusal} :
    onInstrument i s act = .refused r ↔ i = 3#2 ∧ r = .illegalInstrument := by
  rw [← instrumentOf_eq_none]
  unfold onInstrument
  split
  next k hk => simp [hk]
  next hk => simpa [hk] using eq_comm

/-- `withSinkReport` refuses an over-report, by V3's name (R251, R292). -/
theorem withSinkReport_eq_refused {s : State} {act : State → State} {r : Refusal} :
    withSinkReport s act = .refused r ↔ s.freeCapacity < s.inputs.writable ∧ r = .sinkOverReported := by
  unfold withSinkReport State.reportHonest
  split_ifs with h
  · simpa using fun hlt => absurd (of_decide_eq_true h) (Nat.not_le.2 hlt)
  · have hlt : s.freeCapacity < s.inputs.writable := by simpa using h
    simpa [hlt] using eq_comm

/-- DRAIN refuses an empty sink (R70). -/
theorem drain_eq_refused {s : State} {rest : List Event} {r : Refusal} :
    s.drain rest = .refused r ↔ s.fifo = [] ∧ r = .drainOfEmptySink := by
  unfold State.drain
  split
  next h => simpa [h] using eq_comm
  next v later h => simp [h]

/-- The contract violations a command itself can carry: V1 in TRIG and MORPH, V3 in RENDER and SILENCE (R251). -/
theorem exec_eq_refused {i : Instr} {s : State} {r : Refusal} (h : exec i s = .refused r) :
    r = .illegalInstrument ∨ r = .sinkOverReported := by
  cases i with
  | trig k v => exact .inl (onInstrument_eq_refused.1 h).2
  | morph k v => exact .inl (onInstrument_eq_refused.1 h).2
  | render => exact .inr (withSinkReport_eq_refused.1 h).2
  | silence => exact .inr (withSinkReport_eq_refused (act := fun s => fillSink (fade s)).1 h).2
  | setcc cc v =>
    change execSetcc cc v s = _ at h
    unfold execSetcc at h
    split at h <;> cases h
  | nop => cases h
  | setbw b => cases h
  | setbal m => cases h
  | idle => cases h

/-- No word is refused as an ill-formed configuration. -/
theorem refusalOf_ne_illFormedConfiguration (why : Reject) : refusalOf why ≠ .illFormedConfiguration := by
  cases why <;> simp [refusalOf]

/-- Nothing that arrives is itself refused as an ill-formed configuration. -/
theorem runArrival_ne_illFormedConfiguration (s : State) : runArrival s ≠ .refused .illFormedConfiguration := by
  intro h
  unfold runArrival at h
  split at h
  next => cases h
  next cmd now r w rest _ =>
    unfold runCommand at h
    split at h
    next i _ => cases exec_eq_refused h <;> contradiction
    next why _ => exact refusalOf_ne_illFormedConfiguration why (Host.Outcome.refused.inj h)
  next rest _ => cases (drain_eq_refused.1 h).2
  next rest _ => cases h

/-- A step names the configuration exactly when the configuration fails its check. -/
theorem step_eq_illFormedConfiguration_iff (s : State) :
    step s = .refused .illFormedConfiguration ↔ ¬ s.cfg.wf = true := by
  unfold step stepConfigured
  split_ifs with hw
  · simpa [hw] using runArrival_ne_illFormedConfiguration s
  · simp [hw]

/-- Settles O9: a step names the configuration exactly when `Config.wf` fails, which says the conditions of R8. -/
theorem stepRefusesIllFormedConfiguration : Obligations.StepRefusesIllFormedConfiguration := by
  intro s
  rw [step_eq_illFormedConfiguration_iff, Config.wf_iff]

end Sys2Proof.Machine
end

section
/-! PROOF. What a rendered block, a command and a step leave as it was: the configuration (10_state.md rule R39) and the
part of the state UPDMOD and SAMPLE never write. -/

namespace Sys2Proof.Machine

/-- A block writes the fade counter and no other register of the fixed part (R210, R222). -/
theorem renderBlock_same (s : State) : State.SameFixed { s with fadeCounter := 255 } (renderBlock s) := by
  have h := (updmod_same s).1.trans (samplePeriods_same s.cfg.blockSize (updmod s)).1
  exact ⟨h.cfg, h.patch, h.sampleRate, rfl, h.lastEventTime, h.inputs, h.drained, h.responses, h.arrivals⟩

/-- No command writes the configuration (R39). -/
theorem exec_cfg {i : Instr} {s t : State} (h : exec i s = .next t) : t.cfg = s.cfg := by
  cases i with
  | trig n v =>
    obtain ⟨k, -, rfl⟩ := execTrig_eq_next.1 h
    rfl
  | morph n v =>
    obtain ⟨k, -, rfl⟩ := execMorph_eq_next.1 h
    rfl
  | setcc cc v => obtain ⟨n, -, rfl⟩ | ⟨-, rfl⟩ := execSetcc_eq_next.1 h <;> rfl
  | render =>
    obtain ⟨-, ⟨-, rfl⟩ | ⟨-, rfl⟩⟩ := execRender_eq_next.1 h
    · exact renderBlock_cfg s
    · rfl
  | silence =>
    obtain ⟨-, rfl⟩ := execSilence_eq_next.1 h
    rfl
  | nop | setbw b | setbal m | idle =>
    cases h
    rfl

/-- Settles O51: a step is a command, a DRAIN, `rst` or a wait, and none of them writes the configuration. -/
theorem stepKeepsConfiguration : Obligations.StepKeepsConfiguration := by
  intro s t h
  obtain ⟨-, ⟨-, rfl⟩ | ⟨cmd, now, r, w, rest, i, -, -, hi⟩ | ⟨rest, -, hd⟩ | ⟨rest, -, rfl⟩⟩ := step_eq_next.1 h
  · rfl
  · exact (exec_cfg hi).trans (s.accept_cfg now r w rest)
  · obtain ⟨v, later, -, rfl⟩ := drain_eq_next.1 hd
    rfl
  · rfl

end Sys2Proof.Machine
end

section
/-! PROOF. The invariant `State.Good`: it holds at reset, and every command, DRAIN and `rst` keeps it (10_state.md rules R24
and R33; 20_memory.md rules R60, R70 and R71; 41_patch_control.md rule R150; 42_modulation.md rule R182). -/

namespace Sys2Proof.Machine

/-- A value split off by a weight of at most 255 is no larger (R126, R188). -/
theorem div255_mul_le (a : U8) {c : Nat} (hc : c ≤ 255) : (div255 (a.toNat * c)).toNat ≤ a.toNat := by
  have h : a.toNat * c ≤ a.toNat * 255 := Nat.mul_le_mul_left _ hc
  rw [div255_toNat (byte_mul_le a hc)]
  omega

/-- UPDMOD leaves the captured level of a voice (R180). -/
theorem updmod_level (s : State) (k : Instrument) : ((updmod s).voice k).level = (s.voice k).level := by
  cases k <;> simp [updmod_voice_bd, updmod_voice_sd, updmod_voice_hh, updateVoice_voice_same]

/-- The computed level of a voice whose captured level is at most 254 (R182, R188). -/
theorem updmod_ampLevel_le (s : State) (k : Instrument) (h : (s.voice k).level.toNat ≤ 254) :
    ((updmod s).voice k).ampLevel.toNat ≤ 253 := by
  have bound : ((updateVoice s k).voice k).ampLevel.toNat ≤ 253 := by
    rw [updateVoice_voice_same]
    exact mulhi8_le_of_le _ h
  cases k with
  | bd => rwa [updmod_voice_bd]
  | sd =>
    rw [updmod_voice_sd]
    exact (div255_mul_le _ (Nat.sub_le _ _)).trans bound
  | hh => rwa [updmod_voice_hh]

/-- The decimation counter is at most `sample_rate` after a period that starts with it below 255 (R221). -/
theorem samplePeriod_sampleCounter_le {s : State} (h : s.sampleCounter.toNat < 255) :
    (samplePeriod s).sampleCounter.toNat ≤ s.sampleRate.toNat := by
  have next : (s.sampleCounter + 1).toNat = s.sampleCounter.toNat + 1 := by
    bv_omega
  simp only [samplePeriod_eq]
  split_ifs with fires
  · exact Nat.zero_le _
  · simp only [decimationFires, decide_eq_true_eq] at fires
    omega

/-- The decimation counter stays in the range of R33 while `sample_rate` is in that of R24. -/
theorem samplePeriods_sampleCounter_le {s : State} (n : Nat) (hr : s.sampleRate.toNat ≤ 31)
    (hc : s.sampleCounter.toNat ≤ 31) : (samplePeriods n s).sampleCounter.toNat ≤ 31 := by
  induction n generalizing s with
  | zero => exact hc
  | succ n ih =>
    refine ih ?_ ((samplePeriod_sampleCounter_le (by omega)).trans hr)
    rwa [(samplePeriod_same s).1.sampleRate]

/-- A block with room keeps a good state good (R71, R182, R221). -/
theorem renderBlock_good {s : State} (h : s.Good) (room : s.cfg.blockSize ≤ s.freeCapacity) : (renderBlock s).Good := by
  have fixed := renderBlock_same s
  have levels (k : Instrument) := samplePeriods_levels s.cfg.blockSize (updmod s) k
  refine ⟨?_, ?_, ?_, ?_, fun k => ?_, fun k => ?_⟩
  · rw [fixed.patch]
    exact h.patch
  · have sink := h.sink
    simp only [State.freeCapacity] at room
    rw [renderBlock_fifo_length, renderBlock_cfg]
    omega
  · rw [fixed.sampleRate]
    exact h.sampleRate
  · refine samplePeriods_sampleCounter_le _ ?_ ?_
    · rw [(updmod_same s).1.sampleRate]
      exact h.sampleRate
    · rw [(updmod_same s).2.sampleCounter]
      exact h.sampleCounter
  · have level : ((renderBlock s).voice k).level = (s.voice k).level := (levels k).level.trans (updmod_level s k)
    rw [level]
    exact h.level k
  · have ampLevel : ((renderBlock s).voice k).ampLevel = ((updmod s).voice k).ampLevel := (levels k).ampLevel
    rw [ampLevel]
    exact updmod_ampLevel_le s k (h.level k)

/-- A TRIG captures a level of at most 254 (R150). -/
theorem trigger_good {s : State} (h : s.Good) (v : U8) (k : Instrument) : (trigger v k s).Good := by
  have voice (j : Instrument) : (trigger v k s).voice j = if j = k then triggeredVoice s k v else s.voice j :=
    Voices.get_set _ _ _ _
  refine ⟨h.patch, h.sink, h.sampleRate, h.sampleCounter, fun j => ?_, fun j => ?_⟩
  · rw [voice]
    split_ifs
    · exact mulhi8_le _ _
    · exact h.level j
  · rw [voice]
    split_ifs with hj
    · exact h.ampLevel k
    · exact h.ampLevel j

/-- A good state stays good under any patch in canonical form. -/
theorem State.Good.withPatch {s : State} (h : s.Good) {m : Memory} (hm : m.wf = true) : State.Good { s with patch := m } :=
  ⟨hm, h.sink, h.sampleRate, h.sampleCounter, h.level, h.ampLevel⟩

/-- SILENCE fills no more than the room the sink has (R71, R224). -/
theorem fillSink_fade_good {s : State} (h : s.Good) (honest : s.inputs.writable ≤ s.freeCapacity) :
    (fillSink (fade s)).Good := by
  refine ⟨h.patch, ?_, h.sampleRate, h.sampleCounter, h.level, h.ampLevel⟩
  have sink := h.sink
  change (s.fifo ++ List.replicate s.inputs.writable _).length ≤ s.cfg.outCapacity
  simp only [State.freeCapacity] at honest
  rw [List.length_append, List.length_replicate]
  omega

/-- Every command keeps a good state good. -/
theorem exec_good {i : Instr} {s t : State} (h : s.Good) (hi : exec i s = .next t) : t.Good := by
  cases i with
  | nop =>
    cases hi
    exact h
  | trig n v =>
    obtain ⟨k, -, rfl⟩ := execTrig_eq_next.1 hi
    exact trigger_good h v k
  | setcc cc v =>
    obtain ⟨n, -, rfl⟩ | ⟨-, rfl⟩ := execSetcc_eq_next.1 hi
    · exact h.withPatch (State.writePatch_wf h.patch _ _)
    · exact h
  | morph n v =>
    obtain ⟨k, -, rfl⟩ := execMorph_eq_next.1 hi
    rw [morph_eq]
    exact h.withPatch (morphFields_patch v k _ h.patch).1
  | setbw b =>
    cases hi
    refine ⟨h.patch, h.sink, ?_, h.sampleCounter, h.level, h.ampLevel⟩
    change (decimationOf b).toNat ≤ 31
    rw [decimationOf_toNat]
    omega
  | setbal m =>
    cases hi
    exact h.withPatch (State.writePatch_wf (State.writePatch_wf (State.writePatch_wf h.patch _ _) _ _) _ _)
  | render =>
    obtain ⟨honest, ⟨room, rfl⟩ | ⟨-, rfl⟩⟩ := execRender_eq_next.1 hi
    · exact renderBlock_good h (room.trans honest)
    · exact h
  | silence =>
    obtain ⟨honest, rfl⟩ := execSilence_eq_next.1 hi
    exact fillSink_fade_good h honest
  | idle =>
    cases hi
    exact ⟨h.patch, h.sink, h.sampleRate, h.sampleCounter, h.level, h.ampLevel⟩

/-- `rst` makes a good state of any whose sink is within its capacity (R280, R281). -/
theorem hardReset_good {s : State} (sink : s.fifo.length ≤ s.cfg.outCapacity) (rest : List Event) :
    (s.hardReset rest).Good :=
  ⟨rfl, sink, Nat.zero_le _, Nat.zero_le _, fun k => by cases k <;> exact Nat.zero_le _,
    fun k => by cases k <;> exact Nat.zero_le _⟩

/-- Settles O49: the launch state is its own reset, with an empty sink. -/
theorem resetIsGood : Obligations.ResetIsGood := fun c => hardReset_good (s := State.resetOf c) (Nat.zero_le _) []

/-- Settles O50, by what a step can do: the ports and the arrivals are no part of `State.Good`, a command keeps it, a DRAIN
shortens the queue, and `rst` makes it. -/
theorem stepKeepsGood : Obligations.StepKeepsGood := by
  intro s t h hs
  obtain ⟨-, ⟨-, rfl⟩ | ⟨cmd, now, r, w, rest, i, -, -, hi⟩ | ⟨rest, -, hd⟩ | ⟨rest, -, rfl⟩⟩ := step_eq_next.1 hs
  · exact h
  · have accepted : (s.accept now r w rest).Good :=
      ⟨h.patch, h.sink, h.sampleRate, h.sampleCounter, h.level, h.ampLevel⟩
    exact exec_good accepted hi
  · obtain ⟨v, later, hf, rfl⟩ := drain_eq_next.1 hd
    have sink := h.sink
    rw [hf, List.length_cons] at sink
    exact ⟨h.patch, Nat.le_of_succ_le sink, h.sampleRate, h.sampleCounter, h.level, h.ampLevel⟩
  · exact hardReset_good h.sink rest

end Sys2Proof.Machine
end

section
/-! PROOF. The reset values, and which command can write each patch byte and each register (10_state.md rules R23, R24, R28,
R33 to R36, R38, R39 and R42). -/

namespace Sys2Proof.Machine

/-- Settles O13: each value is read off the launch state. -/
theorem resetValues : Obligations.ResetValues :=
  ⟨rfl, fun _ => ⟨rfl, fun _ => rfl,
    fun k => by cases k <;> exact ⟨rfl, rfl, rfl, rfl, rfl, rfl, rfl, rfl, rfl⟩,
    rfl, rfl, rfl, rfl, rfl, rfl, rfl, rfl, rfl, rfl, rfl, rfl, rfl⟩⟩

/-- A byte that MORPH changes is one of the five fields of its instrument (R151). -/
theorem morph_writes {v : U8} {k : Instrument} {s : State} (hw : s.patch.wf = true) {o : PatchOffset}
    (h : (morph v k s).patchByte o ≠ s.patchByte o) : ∃ f : Fin 5, o = flatOffset k f.castSucc := by
  by_contra hf
  exact h ((morphFields_patch v k _ hw).2.1 o fun f _ ho => hf ⟨f, ho⟩)

/-- A byte that SETBAL changes is a `level` byte (R154). -/
theorem execSetbal_writes {m : U8} {s t : State} (hw : s.patch.wf = true) (h : execSetbal m s = .next t) {o : PatchOffset}
    (ho : t.patchByte o ≠ s.patchByte o) : o.val % 6 = 5 := by
  have level (k : Instrument) : (fieldOffset k .level).val % 6 = 5 := by cases k <;> rfl
  rw [setbal_patchByte m hw h] at ho
  split_ifs at ho with hh sd bd
  · exact hh ▸ level .hh
  · exact sd ▸ level .sd
  · exact bd ▸ level .bd
  · exact absurd rfl ho

/-- Settles O27, command by command: the three writers change only their own bytes, the other six leave the PATCH space. -/
theorem patchWriters : Obligations.PatchWriters := by
  intro i s t o hw h ho
  cases i with
  | morph n v =>
    obtain ⟨k, hk, rfl⟩ := execMorph_eq_next.1 h
    obtain ⟨f, hf⟩ := morph_writes hw ho
    exact .inl ⟨n, v, k, f, rfl, (instrumentOf_eq_some n k).1 hk, hf⟩
  | setcc cc v =>
    obtain ⟨n, hn, rfl⟩ | ⟨-, rfl⟩ := execSetcc_eq_next.1 h
    · refine .inr (.inl ⟨cc, v, n, rfl, (ccEntry_eq_some hn).trans (Nat.add_comm _ _), ?_⟩)
      by_contra hne
      exact ho (by rw [State.writePatch_patchByte hw, if_neg hne])
    · exact absurd rfl ho
  | setbal m => exact .inr (.inr ⟨m, rfl, execSetbal_writes hw h ho⟩)
  | trig n v =>
    obtain ⟨k, -, rfl⟩ := execTrig_eq_next.1 h
    exact absurd rfl ho
  | render =>
    obtain ⟨-, ⟨-, rfl⟩ | ⟨-, rfl⟩⟩ := execRender_eq_next.1 h
    · exact absurd (congrArg (Memory.read · o.val) (renderBlock_same s).patch) ho
    · exact absurd rfl ho
  | silence =>
    obtain ⟨-, rfl⟩ := execSilence_eq_next.1 h
    exact absurd rfl ho
  | nop | setbw b | idle =>
    cases h
    exact absurd rfl ho

/-- Settles O28, command by command: a register either stands in the next state as it stood, or the command is a writer of
it. -/
theorem registerWriters : Obligations.RegisterWriters := by
  intro i s t h
  cases i with
  | trig n v =>
    obtain ⟨k, -, rfl⟩ := execTrig_eq_next.1 h
    simp [trigger]
  | morph n v =>
    obtain ⟨k, -, rfl⟩ := execMorph_eq_next.1 h
    rw [morph_eq]
    simp
  | setcc cc v =>
    obtain ⟨n, -, rfl⟩ | ⟨-, rfl⟩ := execSetcc_eq_next.1 h <;> simp
  | render =>
    obtain ⟨-, ⟨-, rfl⟩ | ⟨-, rfl⟩⟩ := execRender_eq_next.1 h
    · have fixed := renderBlock_same s
      simp [fixed.cfg, fixed.sampleRate, fixed.lastEventTime, fixed.drained, fixed.responses]
    · simp
  | silence =>
    obtain ⟨-, rfl⟩ := execSilence_eq_next.1 h
    simp [fillSink, fade]
  | nop | setbw b | setbal m | idle =>
    cases h
    simp

end Sys2Proof.Machine
end

section
/-! PROOF. What no command reads: `playing` (10_state.md rule R36), the registers UPDMOD writes before they are read (rules
R29 and R31), and `st[0].amp_level_noise` and `patch[2].pitch_mod` (rules R21 and R32). -/

namespace Sys2Proof.Machine

/-- Settles O54: the two runs differ in `playing` alone, which TRIG and UPDMOD write and no command reads. -/
theorem playingIsNeverRead : Obligations.PlayingIsNeverRead := by
  intro i s t b h
  cases i with
  | trig n v =>
    obtain ⟨k, hk, rfl⟩ := execTrig_eq_next.1 h
    exact ⟨_, execTrig_eq_next.2 ⟨k, hk, rfl⟩, rfl⟩
  | morph n v =>
    obtain ⟨k, hk, rfl⟩ := execMorph_eq_next.1 h
    exact ⟨_, execMorph_eq_next.2 ⟨k, hk, rfl⟩, rfl⟩
  | setcc cc v =>
    obtain ⟨n, hn, rfl⟩ | ⟨hn, rfl⟩ := execSetcc_eq_next.1 h
    · exact ⟨_, execSetcc_eq_next.2 (.inl ⟨n, hn, rfl⟩), rfl⟩
    · exact ⟨_, execSetcc_eq_next.2 (.inr ⟨hn, rfl⟩), rfl⟩
  | render =>
    obtain ⟨honest, ⟨room, rfl⟩ | ⟨noRoom, rfl⟩⟩ := execRender_eq_next.1 h
    · exact ⟨renderBlock s, execRender_eq_next.2 ⟨honest, .inl ⟨room, rfl⟩⟩, rfl⟩
    · exact ⟨_, execRender_eq_next.2 ⟨honest, .inr ⟨noRoom, rfl⟩⟩, rfl⟩
  | silence =>
    obtain ⟨honest, rfl⟩ := execSilence_eq_next.1 h
    exact ⟨_, execSilence_eq_next.2 ⟨honest, rfl⟩, rfl⟩
  | nop | setbw b | setbal m | idle =>
    cases h
    exact ⟨_, rfl, rfl⟩

theorem State.SameFixed.symm {s t : State} (h : s.SameFixed t) : t.SameFixed s :=
  ⟨h.1.symm, h.2.symm, h.3.symm, h.4.symm, h.5.symm, h.6.symm, h.7.symm, h.8.symm, h.9.symm⟩

/-- Two voice register files with equal records are equal. -/
theorem Voices.eq_of_get {vs ws : Voices} (h : ∀ k, vs.get k = ws.get k) : vs = ws := by
  obtain ⟨bd, sd, hh⟩ := vs
  exact congr (congr (congrArg Voices.mk (h .bd)) (h .sd)) (h .hh)

/-- Two records of instrument `k` agree in the registers UPDMOD reads or keeps: not those that steps 1 to 5 write first (R29,
R31), and not the noise level. -/
structure DrumState.SameForUpdmod (k : Instrument) (d e : DrumState) : Prop where
  phase : e.phase = d.phase
  pitchEnvPhase : e.pitchEnvPhase = d.pitchEnvPhase
  ampEnvPhase : e.ampEnvPhase = d.ampEnvPhase
  ampEnvIncrement : e.ampEnvIncrement = d.ampEnvIncrement
  level : e.level = d.level
  pitchEnvIncrement : k ≠ .hh → e.pitchEnvIncrement = d.pitchEnvIncrement

/-- The pitch envelope of such records advances alike; the hi-hat's pair stands (R184). -/
theorem pitchEnvelopeStep_pitchEnvPhase_congr {s t : State} {k : Instrument}
    (h : (s.voice k).SameForUpdmod k (t.voice k)) :
    ((pitchEnvelopeStep k t).voice k).pitchEnvPhase = ((pitchEnvelopeStep k s).voice k).pitchEnvPhase := by
  cases k <;> simp [pitchEnvelopeStep_voice, h.pitchEnvPhase, h.pitchEnvIncrement]

/-- Steps 1 to 5 of UPDMOD make the same record of such records, but for the noise level, which they keep (R180). -/
theorem updateVoice_voice_of_sameForUpdmod {s t : State} (fixed : s.SameFixed t) {k : Instrument}
    (h : (s.voice k).SameForUpdmod k (t.voice k)) :
    (updateVoice t k).voice k = { (updateVoice s k).voice k with ampLevelNoise := (t.voice k).ampLevelNoise } := by
  have inc : oscillatorIncrement k (pitchEnvelopeStep k t) = oscillatorIncrement k (pitchEnvelopeStep k s) :=
    oscillatorIncrement_congr
      (((pitchEnvelopeStep_same k s).1.symm.trans fixed).trans (pitchEnvelopeStep_same k t).1) k
      (pitchEnvelopeStep_pitchEnvPhase_congr h)
  rw [updateVoice_voice_same, updateVoice_voice_same, inc, fixed.cfg]
  cases k <;> simp [h.phase, h.pitchEnvPhase, h.ampEnvPhase, h.ampEnvIncrement, h.level, h.pitchEnvIncrement]

/-- The voices UPDMOD leaves do not depend on the registers it writes before it reads them (R29, R31). -/
theorem updmod_voices_congr {s t : State} (fixed : s.SameFixed t)
    (h : ∀ k, (s.voice k).SameForUpdmod k (t.voice k))
    (noise : (t.voice .bd).ampLevelNoise = (s.voice .bd).ampLevelNoise) : (updmod t).voices = (updmod s).voices := by
  refine Voices.eq_of_get fun k => ?_
  simp only [State.voices_get]
  cases k with
  | bd =>
    rw [updmod_voice_bd, updmod_voice_bd, updateVoice_voice_of_sameForUpdmod fixed (h .bd), noise, updateVoice_voice_same]
  | sd => rw [updmod_voice_sd, updmod_voice_sd, updateVoice_voice_of_sameForUpdmod fixed (h .sd), fixed.field]
  | hh => rw [updmod_voice_hh, updmod_voice_hh, updateVoice_voice_of_sameForUpdmod fixed (h .hh), fixed.field]

/-- Settles O34: the voices agree record by record, `playing` reads the amplitude envelopes only, and UPDMOD leaves the rest
as it was. -/
theorem updmodIgnoresStaleRegisters : Obligations.UpdmodIgnoresStaleRegisters := by
  intro s vs kept pitchIncrement noise
  have fixed : s.SameFixed { s with voices := vs } := ⟨rfl, rfl, rfl, rfl, rfl, rfl, rfl, rfl, rfl⟩
  have alike (k : Instrument) : (s.voice k).SameForUpdmod k (vs.get k) := by
    obtain ⟨phase, pitchPhase, ampPhase, ampIncrement, level⟩ := kept k
    exact ⟨phase, pitchPhase, ampPhase, ampIncrement, level, pitchIncrement k⟩
  have playing : (updmod { s with voices := vs }).playing = (updmod s).playing := by
    have read (k : Instrument) : State.voice { s with voices := vs } k = vs.get k := rfl
    simp only [updmod_playing, read, (alike _).ampEnvPhase, (alike _).ampEnvIncrement]
  obtain ⟨f, g⟩ := updmod_same s
  obtain ⟨f', g'⟩ := updmod_same { s with voices := vs }
  exact State.eq_of_fields (f'.cfg.trans f.cfg.symm) (f'.patch.trans f.patch.symm) (updmod_voices_congr fixed alike noise)
    (f'.sampleRate.trans f.sampleRate.symm) (g'.sample.trans g.sample.symm) (g'.sampleCounter.trans g.sampleCounter.symm)
    (g'.noise.trans g.noise.symm) (f'.fadeCounter.trans f.fadeCounter.symm) playing
    (f'.lastEventTime.trans f.lastEventTime.symm) (f'.inputs.trans f.inputs.symm) (g'.fifo.trans g.fifo.symm)
    (f'.drained.trans f.drained.symm) (f'.responses.trans f.responses.symm) (f'.arrivals.trans f.arrivals.symm)

/-- `s` with another bass-drum noise level and another PATCH space. -/
def State.withUnread (s : State) (x : U8) (m : Memory) : State :=
  { s with patch := m, voices := { s.voices with bd := { s.voices.bd with ampLevelNoise := x } } }

/-- The memory `m` reads as the patch of `s` in every field but the hi-hat's `pitch_mod`. -/
def State.SameReadFields (s : State) (m : Memory) : Prop :=
  ∀ k f, (k, f) ≠ (.hh, .pitchMod) → m.read (fieldOffset k f).val = s.field k f

theorem State.SameReadFields.of_sameFixed {s t : State} {m : Memory} (h : s.SameReadFields m) (fixed : s.SameFixed t) :
    t.SameReadFields m := fun k f hf => (h k f hf).trans (fixed.field k f).symm

theorem State.SameReadFields.field_withUnread {s : State} {m : Memory} (h : s.SameReadFields m) (x : U8) {k : Instrument}
    {f : PatchField} (hf : (k, f) ≠ (.hh, .pitchMod)) : (s.withUnread x m).field k f = s.field k f := h k f hf

section

variable {s : State} {m : Memory} (x : U8)

/-- The pitch reads neither of the two (R21, R32, R183, R184). -/
theorem pitchOf_withUnread (h : s.SameReadFields m) (k : Instrument) : pitchOf k (s.withUnread x m) = pitchOf k s := by
  have fields := fun k f hf => h.field_withUnread x (k := k) (f := f) hf
  cases k <;> simp [pitchOf, basePitch, pitchModulation, fields] <;> rfl

/-- Steps 4 and 5 of UPDMOD commute with a change of the two (R185, R187). -/
theorem incrementStep_withUnread (h : s.SameReadFields m) (k : Instrument) :
    incrementStep k (s.withUnread x m) = (incrementStep k s).withUnread x m := by
  have inc : oscillatorIncrement k (s.withUnread x m) = oscillatorIncrement k s :=
    congrArg (interp16 s.cfg.phaseInc) (pitchOf_withUnread x h k)
  cases k <;> simp only [incrementStep, inc] <;> rfl

/-- Steps 1 to 3 of UPDMOD read the voice register file and the decay curve only (R181, R182, R184). -/
theorem envelopeSteps_withUnread (s : State) (m : Memory) (k : Instrument) :
    pitchEnvelopeStep k (ampLevelStep k (ampEnvelopeStep k (s.withUnread x m))) =
      (pitchEnvelopeStep k (ampLevelStep k (ampEnvelopeStep k s))).withUnread x m := by
  cases k <;> rfl

theorem updateVoice_withUnread (h : s.SameReadFields m) (k : Instrument) :
    updateVoice (s.withUnread x m) k = (updateVoice s k).withUnread x m := by
  have fixed : s.SameFixed (pitchEnvelopeStep k (ampLevelStep k (ampEnvelopeStep k s))) :=
    ((ampEnvelopeStep_same k s).1.trans (setVoice_same _ _ _).1).trans (pitchEnvelopeStep_same k _).1
  rw [updateVoice, envelopeSteps_withUnread]
  exact incrementStep_withUnread x (h.of_sameFixed fixed) k

/-- Step 6 reads the crunchiness of the snare and of the hi-hat (R188, R189). -/
theorem noiseLevels_withUnread (h : s.SameReadFields m) :
    hihatNoiseLevel (snareSplit (s.withUnread x m)) = (hihatNoiseLevel (snareSplit s)).withUnread x m := by
  have split : snareSplit (s.withUnread x m) = (snareSplit s).withUnread x m := by
    simp only [snareSplit, h.field_withUnread x (show (Instrument.sd, PatchField.crunchiness) ≠ _ by decide)]
    rfl
  have h' : (snareSplit s).SameReadFields m := h.of_sameFixed (setVoice_same _ _ _).1
  rw [split, hihatNoiseLevel, h'.field_withUnread x (by decide)]
  rfl

/-- UPDMOD commutes with a change of the two. -/
theorem updmod_withUnread (h : s.SameReadFields m) : updmod (s.withUnread x m) = (updmod s).withUnread x m := by
  have h0 := h.of_sameFixed (updmodStart_same s).1
  have h1 := h0.of_sameFixed (updateVoice_same .bd _).1
  have h2 := h1.of_sameFixed (updateVoice_same .sd _).1
  have h3 := h2.of_sameFixed (updateVoice_same .hh _).1
  have start : ({ s.withUnread x m with playing := playingAtUpdmodStart } : State) =
    State.withUnread { s with playing := playingAtUpdmodStart } x m := rfl
  rw [updmod_eq, updmod_eq, start, updateVoice_withUnread x h0, updateVoice_withUnread x h1, updateVoice_withUnread x h2,
    noiseLevels_withUnread x h3]

/-- SAMPLE reads neither of the two (R21, R32). -/
theorem samplePeriods_withUnread (n : Nat) (s : State) (m : Memory) :
    samplePeriods n (s.withUnread x m) = (samplePeriods n s).withUnread x m := by
  induction n generalizing s with
  | zero => rfl
  | succ n ih => exact ih (samplePeriod s)

/-- A block commutes with a change of the two. -/
theorem renderBlock_withUnread (h : s.SameReadFields m) :
    renderBlock (s.withUnread x m) = (renderBlock s).withUnread x m := by
  rw [renderBlock, updmod_withUnread x h, samplePeriods_withUnread]
  rfl

end

/-- The offset of the hi-hat's `pitch_mod` is that of no other field (R22). -/
theorem eq_hihat_pitchMod_of_fieldOffset_eq {k : Instrument} {f : PatchField}
    (h : fieldOffset k f = fieldOffset .hh .pitchMod) : (k, f) = (.hh, .pitchMod) := by
  revert h
  cases k <;> cases f <;> decide

/-- A write of the hi-hat's `pitch_mod` leaves every other field. -/
theorem sameReadFields_write {s : State} (hw : s.patch.wf = true) (y : U8) :
    s.SameReadFields (s.setField .hh .pitchMod y).patch := by
  intro k f hf
  exact (State.writePatch_patchByte hw _ _ _).trans (if_neg (mt eq_hihat_pitchMod_of_fieldOffset_eq hf))

/-- Settles O55: the changed state is `State.withUnread`, a block commutes with it, and it holds no sample. -/
theorem unreadRegistersAreNotHeard : Obligations.UnreadRegistersAreNotHeard := by
  intro s t x y hw h
  let m := (s.setField .hh .pitchMod y).patch
  have commutes : exec .render (s.withUnread x m) = .next (t.withUnread x m) := by
    obtain ⟨honest, ⟨room, rfl⟩ | ⟨noRoom, rfl⟩⟩ := execRender_eq_next.1 h
    · exact execRender_eq_next.2 ⟨honest, .inl ⟨room, (renderBlock_withUnread x (sameReadFields_write hw y)).symm⟩⟩
    · exact execRender_eq_next.2 ⟨honest, .inr ⟨noRoom, rfl⟩⟩
  exact ⟨t.withUnread x m, commutes, rfl, rfl, rfl, rfl, rfl, rfl⟩

end Sys2Proof.Machine
end

section
/-! PROOF. The first block after reset (10_state.md rule R42; 43_render.md rule R225): finished envelopes, levels of 0, and
so the centred value 128 in every sample. -/

namespace Sys2Proof.Machine

/-- No voice sounds: the levels the mixer multiplies by are 0 (R225). The hi-hat's noise level needs no premise. -/
structure State.Silent (s : State) : Prop where
  ampLevel : ∀ k, (s.voice k).ampLevel = 0
  snareNoiseLevel : (s.voice .sd).ampLevelNoise = 0

/-- Silent voices mix to the bias (R225 (b)). -/
theorem mixedSample_of_silent {s : State} (h : s.Silent) : mixedSample s = 128#8 := by
  have bd : bassContribution s = 0 := by
    rw [bassContribution, show s.voices.bd.ampLevel = 0#8 from h.ampLevel .bd, smul8_zero]
  have sdt : snareTone s = 0 := by
    rw [snareTone, show s.voices.sd.ampLevel = 0#8 from h.ampLevel .sd, smul8_zero]
  have sdn : snareNoise s = 0 := by
    rw [snareNoise, show s.voices.sd.ampLevelNoise = 0#8 from h.snareNoiseLevel, smul8_zero]
  have hh : hihatContribution s = 0 := by
    rw [hihatContribution, show s.voices.hh.ampLevel = 0#8 from h.ampLevel .hh, smul8_zero]
  rw [mixedSample, bd, sdt, sdn, hh]
  rfl

theorem startPeriod_ampLevel (s : State) (k : Instrument) : ((startPeriod s).voice k).ampLevel = (s.voice k).ampLevel := by
  cases k <;> rfl

/-- The noise and the phases move no level (R212, R213). -/
theorem startPeriod_silent {s : State} (h : s.Silent) : (startPeriod s).Silent :=
  ⟨fun k => (startPeriod_ampLevel s k).trans (h.ampLevel k), h.snareNoiseLevel⟩

/-- A period moves no level. -/
theorem samplePeriod_silent {s : State} (h : s.Silent) : (samplePeriod s).Silent :=
  ⟨fun k => ((samplePeriod_levels s k).ampLevel).trans (h.ampLevel k),
    (samplePeriod_levels s .sd).ampLevelNoise.trans h.snareNoiseLevel⟩

/-- With the held sample at 128, silent voices push 128 whether or not the held sample updates (R221, R225). -/
theorem samplePeriod_of_silent {s : State} (h : s.Silent) (held : s.sample = 128#8) :
    (samplePeriod s).sample = 128#8 ∧ (samplePeriod s).fifo = s.fifo ++ [128#8] := by
  simp [samplePeriod_eq, mixedSample_of_silent (startPeriod_silent h), held]

/-- Silent voices push 128 for as long as they are sampled. -/
theorem samplePeriods_fifo_of_silent {s : State} (h : s.Silent) (held : s.sample = 128#8) (n : Nat) :
    (samplePeriods n s).fifo = s.fifo ++ List.replicate n 128#8 := by
  induction n generalizing s with
  | zero => simp [samplePeriods]
  | succ n ih =>
    obtain ⟨held', fifo⟩ := samplePeriod_of_silent h held
    rw [samplePeriods, ih (samplePeriod_silent h) held', fifo, List.replicate_succ, List.append_assoc, List.singleton_append]

/-- SAMPLE leaves the pitch-envelope phase of the two drums (R213). -/
theorem samplePeriods_pitchEnvPhase (n : Nat) (s : State) {k : Instrument} (hk : k ≠ .hh) :
    ((samplePeriods n s).voice k).pitchEnvPhase = (s.voice k).pitchEnvPhase := by
  induction n generalizing s with
  | zero => rfl
  | succ n ih =>
    refine (ih (samplePeriod s)).trans ?_
    cases k with
    | bd => rfl
    | sd => rfl
    | hh => exact absurd rfl hk

/-- UPDMOD advances the amplitude envelope of each voice (R181). -/
theorem updmod_ampEnvelope (s : State) (k : Instrument) :
    ((updmod s).voice k).ampEnvPhase = envNextPhase (s.voice k).ampEnvPhase (s.voice k).ampEnvIncrement ∧
      ((updmod s).voice k).ampEnvIncrement = envNextIncrement (s.voice k).ampEnvPhase (s.voice k).ampEnvIncrement := by
  cases k <;> simp [updmod_voice_bd, updmod_voice_sd, updmod_voice_hh, updateVoice_voice_same]

/-- UPDMOD advances the pitch envelopes of the two drums (R184). -/
theorem updmod_pitchEnvelope (s : State) {k : Instrument} (hk : k ≠ .hh) :
    ((updmod s).voice k).pitchEnvPhase = envNextPhase (s.voice k).pitchEnvPhase (s.voice k).pitchEnvIncrement ∧
      ((updmod s).voice k).pitchEnvIncrement =
        envNextIncrement (s.voice k).pitchEnvPhase (s.voice k).pitchEnvIncrement := by
  cases k with
  | bd => simp [updmod_voice_bd, updateVoice_voice_same]
  | sd => simp [updmod_voice_sd, updateVoice_voice_same]
  | hh => exact absurd rfl hk

/-- A voice of captured level 0 gets the level 0 (R182, R188). -/
theorem updmod_ampLevel_of_level_zero {s : State} {k : Instrument} (h : (s.voice k).level = 0#8) :
    ((updmod s).voice k).ampLevel = 0#8 := by
  cases k <;> simp [updmod_voice_bd, updmod_voice_sd, updmod_voice_hh, updateVoice_voice_same, h]

/-- A snare of captured level 0 gets the noise level 0 (R182, R188). -/
theorem updmod_snareNoiseLevel_of_level_zero {s : State} (h : (s.voice .sd).level = 0#8) :
    ((updmod s).voice .sd).ampLevelNoise = 0#8 := by
  simp [updmod_voice_sd, updateVoice_voice_same, h]

/-- An envelope with increment 0 finishes (R128). -/
theorem envFinishes_zero (p : U16) : envFinishes p 0#16 = true := (envFinishes_iff p 0#16).2 (.inl rfl)

theorem envNextPhase_zero (p : U16) : envNextPhase p 0#16 = 0xFFFF#16 := if_pos (envFinishes_zero p)

theorem envNextIncrement_zero (p : U16) : envNextIncrement p 0#16 = 0#16 := if_pos (envFinishes_zero p)

/-- A voice that was never struck, after UPDMOD: level 0, every envelope finished (R42). -/
structure DrumState.AtRest (k : Instrument) (d : DrumState) : Prop where
  amp : d.ampFinished
  ampLevel : d.ampLevel = 0
  pitch : k ≠ .hh → d.pitchEnvPhase = 0xFFFF#16 ∧ d.pitchEnvIncrement = 0

/-- UPDMOD puts a voice in its reset state at rest. -/
theorem updmod_atRest {s : State} {k : Instrument} (h : s.voice k = DrumState.zero) : ((updmod s).voice k).AtRest k := by
  obtain ⟨ampPhase, ampIncrement⟩ := updmod_ampEnvelope s k
  rw [h] at ampPhase ampIncrement
  refine ⟨⟨ampPhase.trans (envNextPhase_zero _), ampIncrement.trans (envNextIncrement_zero _)⟩,
    updmod_ampLevel_of_level_zero (by rw [h]; rfl), fun hk => ?_⟩
  obtain ⟨pitchPhase, pitchIncrement⟩ := updmod_pitchEnvelope s hk
  rw [h] at pitchPhase pitchIncrement
  exact ⟨pitchPhase.trans (envNextPhase_zero _), pitchIncrement.trans (envNextIncrement_zero _)⟩

/-- UPDMOD leaves `playing` clear when every voice is in its reset state (R36, R181). -/
theorem updmod_playing_of_zero {s : State} (h : ∀ k, s.voice k = DrumState.zero) : (updmod s).playing = false := by
  rw [updmod_playing, h, h, h]
  rfl

/-- A voice at rest stays at rest while samples are taken (R213). -/
theorem samplePeriods_atRest {s : State} {k : Instrument} (h : (s.voice k).AtRest k) (n : Nat) :
    ((samplePeriods n s).voice k).AtRest k := by
  have levels := samplePeriods_levels n s k
  refine ⟨⟨levels.ampEnvPhase.trans h.amp.1, levels.ampEnvIncrement.trans h.amp.2⟩, levels.ampLevel.trans h.ampLevel,
    fun hk => ⟨?_, levels.pitchEnvIncrement.trans (h.pitch hk).2⟩⟩
  exact (samplePeriods_pitchEnvPhase n s hk).trans (h.pitch hk).1

/-- Settles O14: UPDMOD puts the reset voices at rest, and then every sample is the centred value the held sample has. -/
theorem firstRenderAfterResetIsCentred : Obligations.FirstRenderAfterResetIsCentred := by
  intro c inputs _ room honest
  let s : State := { State.resetOf c with inputs := inputs }
  have zero (k : Instrument) : s.voice k = DrumState.zero := by cases k <;> rfl
  have rest (k : Instrument) : ((updmod s).voice k).AtRest k := updmod_atRest (zero k)
  have same := (updmod_same s).2
  have silent : (updmod s).Silent := ⟨fun k => (rest k).ampLevel, updmod_snareNoiseLevel_of_level_zero rfl⟩
  have fifo := samplePeriods_fifo_of_silent silent same.sample c.blockSize
  rw [same.fifo] at fifo
  have after (k : Instrument) : ((renderBlock s).voice k).AtRest k := samplePeriods_atRest (rest k) c.blockSize
  have playing : (renderBlock s).playing = false :=
    (samplePeriods_same c.blockSize (updmod s)).2.trans (updmod_playing_of_zero zero)
  exact ⟨renderBlock s, execRender_eq_next.2 ⟨honest, .inl ⟨room, rfl⟩⟩, fifo, playing,
    fun k => ⟨(after k).amp, (after k).ampLevel⟩, fun k => (after k).pitch⟩

end Sys2Proof.Machine
end

section
/-! PROOF. The sink and the step (20_memory.md rules R70, R71 and R75; 30_encoding.md rule R91; 43_render.md rules R210, R221
and R222): what a step does with a word and with a DRAIN, what a block pushes, and that no step takes back what was pushed or
answered. -/

namespace Sys2Proof.Machine

/-- A step with a well-formed configuration takes the next arrival. -/
theorem step_of_wf {s : State} (wf : s.cfg.wf = true) : step s = runArrival s := if_pos wf

/-- A word on the port is run at the state that has sampled its inputs (R75, R91). -/
theorem step_command {s : State} {cmd : CmdWord} {now : U32} {r : U8} {w : Option Nat} {rest : List Event}
    (wf : s.cfg.wf = true) (h : s.arrivals = .command cmd now r w :: rest) :
    step s = runCommand cmd (s.accept now r w rest) := by
  rw [step_of_wf wf, runArrival, h]

/-- A word that decodes is executed (R75). -/
theorem runCommand_of_decode {cmd : CmdWord} {i : Instr} (h : decode cmd = .ok i) (s : State) :
    runCommand cmd s = exec i s := by
  rw [runCommand, h]

/-- A DRAIN that arrives is the sink's DRAIN step (R70). -/
theorem step_drain {s : State} {rest : List Event} (wf : s.cfg.wf = true) (h : s.arrivals = .drain :: rest) :
    step s = s.drain rest := by
  rw [step_of_wf wf, runArrival, h]

/-- Settles O7: the step runs the word, the word decodes, and the state it is run at has accepted it. -/
theorem stepRunsDecodedCommand : Obligations.StepRunsDecodedCommand := by
  intro s cmd now r w rest i wf arrives decodes
  exact (step_command wf arrives).trans (runCommand_of_decode decodes _)

/-- A DRAIN moves a sample from the queue to the drained ones: what was ever pushed stays (R70). -/
theorem drain_pushed {s t : State} {rest : List Event} (h : s.drain rest = .next t) : t.pushed = s.pushed := by
  obtain ⟨v, later, fifo, rfl⟩ := drain_eq_next.1 h
  simp [State.pushed, fifo]

/-- Settles O11, on an empty sink and on a queue with an oldest sample. -/
theorem drainRemovesOldestSample : Obligations.DrainRemovesOldestSample := by
  intro s rest wf arrives
  rw [step_drain wf arrives]
  refine ⟨fun empty => drain_eq_refused.2 ⟨empty, rfl⟩, fun v later fifo => ?_⟩
  have drains := (drain_eq_next (rest := rest)).2 ⟨v, later, fifo, rfl⟩
  exact ⟨_, drains, rfl, drain_pushed drains⟩

/-- Sample periods append to the queue, one sample each (R221). -/
theorem samplePeriods_fifo (n : Nat) (s : State) :
    ∃ out : List U8, out.length = n ∧ (samplePeriods n s).fifo = s.fifo ++ out := by
  induction n generalizing s with
  | zero => exact ⟨[], rfl, (List.append_nil _).symm⟩
  | succ n ih =>
    obtain ⟨out, length, fifo⟩ := ih (samplePeriod s)
    refine ⟨(samplePeriod s).sample :: out, by rw [List.length_cons, length], ?_⟩
    have first : (samplePeriod s).fifo = s.fifo ++ [(samplePeriod s).sample] := rfl
    rw [samplePeriods, fifo, first, List.append_assoc, List.singleton_append]

/-- A block appends BLOCK_SIZE samples to the queue (R71, R210). -/
theorem renderBlock_fifo (s : State) :
    ∃ out : List U8, out.length = s.cfg.blockSize ∧ (renderBlock s).fifo = s.fifo ++ out := by
  rw [← (updmod_same s).2.fifo]
  exact samplePeriods_fifo s.cfg.blockSize (updmod s)

/-- A block with room takes BLOCK_SIZE places of the free capacity (R70, R71). -/
theorem renderBlock_freeCapacity {s : State} (room : s.cfg.blockSize ≤ s.freeCapacity) :
    (renderBlock s).freeCapacity + s.cfg.blockSize = s.freeCapacity := by
  simp only [State.freeCapacity, renderBlock_cfg, renderBlock_fifo_length] at *
  omega

/-- A block leaves the captured level of a voice (R150, R180). -/
theorem renderBlock_level (s : State) (k : Instrument) : ((renderBlock s).voice k).level = (s.voice k).level :=
  (samplePeriods_levels s.cfg.blockSize (updmod s) k).level.trans (updmod_level s k)

/-- UPDMOD leaves the bass drum's noise level (R32, R180). -/
theorem updmod_bassNoiseLevel (s : State) : ((updmod s).voice .bd).ampLevelNoise = (s.voice .bd).ampLevelNoise := by
  rw [updmod_voice_bd, updateVoice_voice_same]

/-- A block leaves the bass drum's noise level (R32). -/
theorem renderBlock_bassNoiseLevel (s : State) :
    ((renderBlock s).voice .bd).ampLevelNoise = (s.voice .bd).ampLevelNoise :=
  (samplePeriods_levels s.cfg.blockSize (updmod s) .bd).ampLevelNoise.trans (updmod_bassNoiseLevel s)

/-- Settles O37: RENDER with room is a block, which appends its samples to the queue and keeps the part of the state that
UPDMOD and SAMPLE never write. -/
theorem renderFrame : Obligations.RenderFrame := by
  intro s honest room
  obtain ⟨out, length, fifo⟩ := renderBlock_fifo s
  have fixed := renderBlock_same s
  have patch : s.SamePatch (renderBlock s) := fun o => congrArg (Memory.read · o.val) fixed.patch
  exact ⟨renderBlock s, out, execRender_eq_next.2 ⟨honest, .inl ⟨room, rfl⟩⟩, length, fifo,
    renderBlock_freeCapacity (room.trans honest), rfl, patch, fixed.sampleRate, fixed.lastEventTime,
    renderBlock_level s, renderBlock_bassNoiseLevel s, fixed.drained, fixed.responses,
    fixed.cfg, fixed.inputs, fixed.arrivals⟩

/-- The observable output of `t` extends that of `s`: every sample pushed and every response, in order (R70, R91). -/
def State.OutputExtends (s t : State) : Prop := s.pushed <+: t.pushed ∧ s.responses <+: t.responses

theorem State.OutputExtends.of_eq {s t : State} (pushed : t.pushed = s.pushed) (responses : t.responses = s.responses) :
    s.OutputExtends t := by
  rw [State.OutputExtends, pushed, responses]
  exact ⟨List.prefix_rfl, List.prefix_rfl⟩

/-- Samples appended to the queue extend the output. -/
theorem State.OutputExtends.of_fifo {s t : State} {out : List U8} (drained : t.drained = s.drained)
    (fifo : t.fifo = s.fifo ++ out) (responses : t.responses = s.responses) : s.OutputExtends t := by
  refine ⟨⟨out, ?_⟩, responses ▸ List.prefix_rfl⟩
  rw [State.pushed, State.pushed, drained, fifo, List.append_assoc]

/-- A command extends the output: RENDER and SILENCE append samples, IDLE a response, and the others nothing. -/
theorem exec_outputExtends {i : Instr} {s t : State} (h : exec i s = .next t) : s.OutputExtends t := by
  cases i with
  | trig n v =>
    obtain ⟨k, -, rfl⟩ := execTrig_eq_next.1 h
    exact .of_eq rfl rfl
  | morph n v =>
    obtain ⟨k, -, rfl⟩ := execMorph_eq_next.1 h
    exact .of_eq rfl rfl
  | setcc cc v =>
    obtain ⟨n, -, rfl⟩ | ⟨-, rfl⟩ := execSetcc_eq_next.1 h <;> exact .of_eq rfl rfl
  | render =>
    obtain ⟨-, ⟨-, rfl⟩ | ⟨-, rfl⟩⟩ := execRender_eq_next.1 h
    · obtain ⟨out, -, fifo⟩ := renderBlock_fifo s
      exact .of_fifo (renderBlock_same s).drained fifo (renderBlock_same s).responses
    · exact .of_eq rfl rfl
  | silence =>
    obtain ⟨-, rfl⟩ := execSilence_eq_next.1 h
    exact .of_fifo rfl rfl rfl
  | idle =>
    cases h
    exact ⟨List.prefix_rfl, List.prefix_append _ _⟩
  | nop | setbw b | setbal m =>
    cases h
    exact .of_eq rfl rfl

/-- Settles O52, by what a step can do: a command extends the output; a DRAIN, `rst` and a wait leave it. -/
theorem outputOnlyGrows : Obligations.OutputOnlyGrows := by
  intro s t h
  change s.OutputExtends t
  obtain ⟨-, ⟨-, rfl⟩ | ⟨cmd, now, r, w, rest, i, -, -, hi⟩ | ⟨rest, -, hd⟩ | ⟨rest, -, rfl⟩⟩ := step_eq_next.1 h
  · exact .of_eq rfl rfl
  · exact exec_outputExtends (s := s.accept now r w rest) hi
  · have pushed := drain_pushed hd
    obtain ⟨v, later, -, rfl⟩ := drain_eq_next.1 hd
    exact .of_eq pushed rfl
  · exact .of_eq rfl rfl

end Sys2Proof.Machine
end

section
/-! PROOF. The address spaces (20_memory.md rules R60, R61 and R67): which indices read an element, and what a PATCH write
changes. -/

namespace Sys2Proof

/-- A table has an entry at an index exactly when the index is below its length. -/
theorem Table.isSome_getElem? {α : Type} {n : Nat} (T : Table α n) (i : Nat) :
    (T.entries[i]?).isSome = true ↔ i < n := by
  rw [Option.isSome_iff_ne_none, ne_eq, List.getElem?_eq_none_iff, T.entries_length, not_le]

/-- The entry of a table at an index below its length. -/
theorem Table.getElem?_of_lt {α : Type} {n i : Nat} (T : Table α n) (h : i < n) : T.entries[i]? = some (T.get ⟨i, h⟩) :=
  List.getElem?_eq_getElem _

namespace Machine

/-- A PRESET element is read exactly at the numbers of its 3 instruments, 5 presets and 5 fields (R60, R64). -/
theorem memRead_preset_isSome (s : State) (n : Nat) : (s.memRead .preset n).isSome = true ↔ n < 75 := by
  unfold State.memRead
  by_cases h : n < 75
  · have instrument : n / 25 < 3 := by omega
    have preset : n / 5 % 5 < 5 := Nat.mod_lt _ (by decide)
    have field : n % 5 < 5 := Nat.mod_lt _ (by decide)
    simp [h, Table.getElem?_of_lt, instrument, preset, field]
  · have instrument : s.cfg.preset.entries[n / 25]? = none := by
      rw [← Option.not_isSome_iff_eq_none, Table.isSome_getElem?]
      omega
    simp [h, instrument]

/-- An index reads an element exactly when it is in its space (R60, R67). -/
theorem memRead_isSome (s : State) (space : Space) (n : Nat) :
    (s.memRead space n).isSome = true ↔ n < space.elements := by
  cases space with
  | patch => simp [State.memRead, Space.elements]
  | preset => exact memRead_preset_isSome s n
  | wavSine | envCurve | phaseInc | envInc | ccMap =>
    rw [State.memRead, Option.isSome_map]
    exact Table.isSome_getElem? _ n

/-- A write of PATCH is the write of one patch byte (R60, R61). -/
theorem memWrite_patch_eq_some {s t : State} {n : Nat} {v : U8} :
    s.memWrite .patch n v = some t ↔ ∃ h : n < 18, t = s.writePatch ⟨n, h⟩ v := by
  unfold State.memWrite
  by_cases h : n < 18
  · simpa [h] using eq_comm
  · simp [h]

/-- The PATCH space after a write: the written byte at its index, every other as before (R61). -/
theorem memRead_patch_writePatch {s : State} (hw : s.patch.wf = true) (o : PatchOffset) (v : U8) (j : Nat) :
    (s.writePatch o v).memRead .patch j = if j = o.val then some v.toNat else s.memRead .patch j := by
  have read (i : Nat) := Memory.read_write (lo := 0) (hi := 18) hw o.val i v
  by_cases same : j = o.val
  · simp [State.memRead, read, same]
  · simp [State.memRead, read, same]

/-- A patch write changes no element of another space (R60). -/
theorem memRead_writePatch_of_ne (s : State) (o : PatchOffset) (v : U8) {space : Space} (h : space ≠ .patch) (j : Nat) :
    (s.writePatch o v).memRead space j = s.memRead space j := by
  cases space with
  | patch => exact absurd rfl h
  | wavSine | envCurve | phaseInc | envInc | preset | ccMap => rfl

/-- Settles O58: an index reads in its bounds only, and a PATCH write is a write of one patch byte, which the reads of the
other bytes and of the other spaces do not see. -/
theorem spacesAreDisjointAndBounded : Obligations.SpacesAreDisjointAndBounded := by
  refine ⟨memRead_isSome, fun s t n v hw h => ?_⟩
  obtain ⟨bound, rfl⟩ := memWrite_patch_eq_some.1 h
  refine ⟨by rw [memRead_patch_writePatch hw, if_pos rfl], fun space j other => ?_⟩
  by_cases patch : space = .patch
  · have index : j ≠ n := other.resolve_left (not_not_intro patch)
    rw [patch, memRead_patch_writePatch hw, if_neg index]
  · exact memRead_writePatch_of_ne s _ v patch j

end Machine

end Sys2Proof
end

section
/-! PROOF. Decoding and encoding (30_encoding.md rules R90, R92, R93 and R94): the decoder opcode by opcode, that it is the
inverse of the encoder on the well-formed commands, and that it follows the opcode map. -/

namespace Sys2Proof

/-- A command with unused fields is decoded exactly where they are zero (R92, R94). -/
theorem requireZero_eq_ok {unused : Bool} {i j : Instr} : requireZero unused i = .ok j ↔ unused = true ∧ i = j := by
  cases unused <;> simp [requireZero]

theorem requireZero_ne_illegalInstrument (unused : Bool) (i : Instr) :
    requireZero unused i ≠ .error .illegalInstrument := by
  cases unused <;> simp [requireZero]

/-- A command with an instrument operand is decoded exactly from an instrument that exists (R92, R94). -/
theorem decodeInstrument_map_eq_ok {a : U8} {command : BitVec 2 → Instr} {j : Instr} :
    (decodeInstrument a).map command = .ok j ↔ ∃ i : BitVec 2, a = i.setWidth 8 ∧ i ≠ 3#2 ∧ command i = j := by
  simp only [← and_assoc, ← decodeInstrument_eq_ok]
  cases decodeInstrument a <;> simp [Except.map]

/-- An instrument operand is illegal by contract exactly where it is 3 (R94). -/
theorem decodeInstrument_map_eq_illegalInstrument {a : U8} (command : BitVec 2 → Instr) :
    (decodeInstrument a).map command = .error .illegalInstrument ↔ a = 3#8 := by
  have operand : decodeInstrument a = .error .illegalInstrument ↔ a = 3#8 := by
    revert a
    decide
  rw [← operand]
  cases decodeInstrument a <;> simp [Except.map]

section
variable (a b : U8)

/-! The decoder at each opcode (R93). -/

theorem decode_nop : decode (joinFields 0#8 a b) = requireZero (a == 0#8 && b == 0#8) .nop := by simp [decode]
theorem decode_trig : decode (joinFields 1#8 a b) = (decodeInstrument a).map (.trig · b) := by simp [decode]
theorem decode_setcc : decode (joinFields 2#8 a b) = .ok (.setcc a b) := by simp [decode]
theorem decode_morph : decode (joinFields 3#8 a b) = (decodeInstrument a).map (.morph · b) := by simp [decode]
theorem decode_setbw : decode (joinFields 4#8 a b) = requireZero (a == 0#8) (.setbw b) := by simp [decode]
theorem decode_setbal : decode (joinFields 5#8 a b) = requireZero (a == 0#8) (.setbal b) := by simp [decode]
theorem decode_render : decode (joinFields 6#8 a b) = requireZero (a == 0#8 && b == 0#8) .render := by simp [decode]
theorem decode_silence : decode (joinFields 7#8 a b) = requireZero (a == 0#8 && b == 0#8) .silence := by simp [decode]
theorem decode_idle : decode (joinFields 8#8 a b) = requireZero (a == 0#8 && b == 0#8) .idle := by simp [decode]

end

/-- The decoder at every other opcode (R94). -/
theorem decode_of_reserved {w : CmdWord} (reserved : 9 ≤ (opField w).toNat) : decode w = .error .reservedOpcode := by
  unfold decode
  split
  case h_10 => rfl
  all_goals omega

/-- Every word has one of the nine opcodes of the map, or a reserved one (R93, R94). -/
theorem opcode_cases {P : CmdWord → Prop}
    (nop : ∀ a b, P (joinFields 0#8 a b)) (trig : ∀ a b, P (joinFields 1#8 a b))
    (setcc : ∀ a b, P (joinFields 2#8 a b)) (morph : ∀ a b, P (joinFields 3#8 a b))
    (setbw : ∀ a b, P (joinFields 4#8 a b)) (setbal : ∀ a b, P (joinFields 5#8 a b))
    (render : ∀ a b, P (joinFields 6#8 a b)) (silence : ∀ a b, P (joinFields 7#8 a b))
    (idle : ∀ a b, P (joinFields 8#8 a b)) (reserved : ∀ w, 9 ≤ (opField w).toNat → P w) (w : CmdWord) : P w := by
  by_cases high : 9 ≤ (opField w).toNat
  · exact reserved w high
  · rw [← joinFields_fields w]
    have low : ∀ op : U8, op.toNat < 9 → op ∈ [0#8, 1#8, 2#8, 3#8, 4#8, 5#8, 6#8, 7#8, 8#8] := by decide
    have op := low (opField w) (by omega)
    simp only [List.mem_cons, List.not_mem_nil, or_false] at op
    obtain op | op | op | op | op | op | op | op | op := op <;> rw [op]
    exacts [nop _ _, trig _ _, setcc _ _, morph _ _, setbw _ _, setbal _ _, render _ _, silence _ _, idle _ _]

/-- Settles O1, command by command: the operands of a well-formed command pass the decoder's checks. -/
theorem decodeOfEncode : Obligations.DecodeOfEncode := by
  intro i wf
  cases i with
  | nop | render | silence | idle => rfl
  | setcc cc v => exact decode_setcc cc v
  | setbw b => exact decode_setbw 0#8 b
  | setbal m => exact decode_setbal 0#8 m
  | trig k v =>
    have legal : k ≠ 3#2 := bne_iff_ne.1 wf
    exact (decode_trig _ v).trans (decodeInstrument_map_eq_ok.2 ⟨k, rfl, legal, rfl⟩)
  | morph k v =>
    have legal : k ≠ 3#2 := bne_iff_ne.1 wf
    exact (decode_morph _ v).trans (decodeInstrument_map_eq_ok.2 ⟨k, rfl, legal, rfl⟩)

/-- Settles O2, opcode by opcode: each field of the word is an operand of the command or required to be zero. -/
theorem encodeOfDecode : Obligations.EncodeOfDecode := by
  intro w i h
  induction w using opcode_cases with
  | nop a b | render a b | silence a b | idle a b =>
    simp only [decode_nop, decode_render, decode_silence, decode_idle, requireZero_eq_ok, Bool.and_eq_true, beq_iff_eq] at h
    obtain ⟨⟨rfl, rfl⟩, rfl⟩ := h
    exact ⟨rfl, rfl⟩
  | setbw a b | setbal a b =>
    simp only [decode_setbw, decode_setbal, requireZero_eq_ok, beq_iff_eq] at h
    obtain ⟨rfl, rfl⟩ := h
    exact ⟨rfl, rfl⟩
  | setcc a b =>
    rw [decode_setcc] at h
    cases h
    exact ⟨rfl, rfl⟩
  | trig a b | morph a b =>
    simp only [decode_trig, decode_morph, decodeInstrument_map_eq_ok] at h
    obtain ⟨k, rfl, legal, rfl⟩ := h
    exact ⟨rfl, bne_iff_ne.2 legal⟩
  | reserved w high =>
    rw [decode_of_reserved high] at h
    cases h

/-- No two rows of the opcode map have one mnemonic (R93). -/
theorem eq_of_mnemonic_eq {r r' : OpcodeRow} (hr : r ∈ opcodeMap) (hr' : r' ∈ opcodeMap)
    (same : r.mnemonic = r'.mnemonic) : r = r' := by
  have distinct : ∀ r ∈ opcodeMap, ∀ r' ∈ opcodeMap, r.mnemonic = r'.mnemonic → r = r' := by decide
  exact distinct r hr r' hr' same

/-- Every command has a row of the opcode map with its mnemonic, which selects the command's word exactly when the command is
well formed (R93). -/
theorem exists_row (i : Instr) : Laws.TableRow.Statement i := by
  cases i with
  | nop => exact Laws.TableRow.nop
  | trig k v => exact Laws.TableRow.trig k v
  | setcc cc v => exact Laws.TableRow.setcc cc v
  | morph k v => exact Laws.TableRow.morph k v
  | setbw b => exact Laws.TableRow.setbw b
  | setbal m => exact Laws.TableRow.setbal m
  | render => exact Laws.TableRow.render
  | silence => exact Laws.TableRow.silence
  | idle => exact Laws.TableRow.idle

/-- The row with a command's mnemonic selects the command's word exactly when the command is well formed (R93). -/
theorem selects_encode_iff {r : OpcodeRow} {i : Instr} (hr : r ∈ opcodeMap) (same : i.mnemonic = r.mnemonic) :
    r.selects (encode i) = true ↔ i.wf = true := by
  obtain ⟨row, mem, mnemonic, selects⟩ := exists_row i
  rwa [eq_of_mnemonic_eq hr mem (same.symm.trans mnemonic.symm)]

/-- A word with the value of three joined fields is those fields (R90). -/
theorem joinFields_eq {op a b : U8} {w : CmdWord} (h : w.toNat = 65536 * op.toNat + 256 * a.toNat + b.toNat) :
    joinFields op a b = w :=
  BitVec.eq_of_toNat_eq ((joinFields_toNat op a b).trans h.symm)

/-- A word that a row selects is the encoding of a command of that row: the mask pins every field that the command does not
read as an operand (R92, R93). -/
theorem exists_encode_of_selects {r : OpcodeRow} {w : CmdWord} (hr : r ∈ opcodeMap) (h : r.selects w = true) :
    ∃ i : Instr, encode i = w ∧ i.mnemonic = r.mnemonic := by
  have a := aField_toNat w
  have b := bField_toNat w
  have operand : ((aField w).setWidth 2 |>.setWidth 8 : U8).toNat = (aField w).toNat % 4 := by
    rw [BitVec.toNat_setWidth, BitVec.toNat_setWidth]
    omega
  simp only [opcodeMap, List.mem_cons, List.not_mem_nil, or_false] at hr
  obtain rfl | rfl | rfl | rfl | rfl | rfl | rfl | rfl | rfl := hr <;>
    simp only [OpcodeRow.selects, and_mask24, and_mask16, and_mask14, and_mask8, aField_bne_three, Bool.not_false,
      Bool.not_true, Bool.true_or, Bool.false_or, Bool.and_true, Bool.and_eq_true, decide_eq_true_eq, BitVec.toNat_ofNat] at h
  · exact ⟨.nop, joinFields_eq h, rfl⟩
  · exact ⟨.trig ((aField w).setWidth 2) (bField w),
      joinFields_eq (by simp only [operand, a, b, BitVec.toNat_ofNat]; omega), rfl⟩
  · exact ⟨.setcc (aField w) (bField w), joinFields_eq (by simp only [a, b, BitVec.toNat_ofNat]; omega), rfl⟩
  · exact ⟨.morph ((aField w).setWidth 2) (bField w),
      joinFields_eq (by simp only [operand, a, b, BitVec.toNat_ofNat]; omega), rfl⟩
  · exact ⟨.setbw (bField w), joinFields_eq (by simp only [b, BitVec.toNat_ofNat]; omega), rfl⟩
  · exact ⟨.setbal (bField w), joinFields_eq (by simp only [b, BitVec.toNat_ofNat]; omega), rfl⟩
  · exact ⟨.render, joinFields_eq h, rfl⟩
  · exact ⟨.silence, joinFields_eq h, rfl⟩
  · exact ⟨.idle, joinFields_eq h, rfl⟩

/-- A row selects exactly the words of the well-formed commands of its mnemonic (R93). -/
theorem selects_iff {r : OpcodeRow} {w : CmdWord} (hr : r ∈ opcodeMap) :
    r.selects w = true ↔ ∃ i, decode w = .ok i ∧ i.mnemonic = r.mnemonic := by
  constructor
  · intro h
    obtain ⟨i, rfl, same⟩ := exists_encode_of_selects hr h
    exact ⟨i, decodeOfEncode i ((selects_encode_iff hr same).1 h), same⟩
  · rintro ⟨i, decodes, same⟩
    obtain ⟨rfl, wf⟩ := encodeOfDecode w i decodes
    exact (selects_encode_iff hr same).2 wf

/-- A word is rejected exactly where no row selects it (R93, R94). -/
theorem selects_none_iff (w : CmdWord) :
    (∀ r ∈ opcodeMap, r.selects w = false) ↔ ∃ why, decode w = .error why := by
  cases decodes : decode w with
  | error why =>
    refine ⟨fun _ => ⟨why, rfl⟩, fun _ r hr => Bool.eq_false_iff.2 fun selected => ?_⟩
    obtain ⟨i, ok, -⟩ := (selects_iff hr).1 selected
    cases decodes.symm.trans ok
  | ok i =>
    obtain ⟨r, hr, same, -⟩ := exists_row i
    have selected : r.selects w = true := (selects_iff hr).2 ⟨i, decodes, same.symm⟩
    refine ⟨fun unlisted => absurd selected (Bool.eq_false_iff.1 (unlisted r hr)), fun ⟨why, rejected⟩ => ?_⟩
    cases rejected

/-- Settles O3: the rows select the words of the well-formed commands, which are the words that decode. -/
theorem decoderFollowsOpcodeMap : Obligations.DecoderFollowsOpcodeMap :=
  fun w => ⟨fun _ hr => selects_iff hr, selects_none_iff w⟩

/-- Settles O4: both rows have the mnemonic of the one command the word decodes to. -/
theorem opcodeRowsDisjoint : Obligations.OpcodeRowsDisjoint := by
  intro w r r' hr hr' h h'
  obtain ⟨i, decodes, same⟩ := (selects_iff hr).1 h
  obtain ⟨i', decodes', same'⟩ := (selects_iff hr').1 h'
  obtain rfl : i = i' := Except.ok.inj (decodes.symm.trans decodes')
  exact eq_of_mnemonic_eq hr hr' (same.symm.trans same')

/-! The three fields as bytes of the word's number (R90). -/

theorem opField_eq_ofNat (w : CmdWord) : opField w = BitVec.ofNat 8 (w.toNat / 65536) := by
  apply BitVec.eq_of_toNat_eq
  rw [opField_toNat, BitVec.toNat_ofNat]
  omega

theorem aField_eq_ofNat (w : CmdWord) : aField w = BitVec.ofNat 8 (w.toNat / 256) :=
  BitVec.eq_of_toNat_eq ((aField_toNat w).trans (BitVec.toNat_ofNat _ 8).symm)

theorem bField_eq_ofNat (w : CmdWord) : bField w = BitVec.ofNat 8 w.toNat :=
  BitVec.eq_of_toNat_eq ((bField_toNat w).trans (BitVec.toNat_ofNat _ 8).symm)

/-- Settles O5: the three bytes join to the command's word, and they are the bytes of its number, the highest first. -/
theorem byteStreamRoundTrip : Obligations.ByteStreamRoundTrip := by
  intro i rest wf
  constructor
  · have stream : decodeBytes (encodeBytes i ++ rest) = (decode (encode i)).map (·, rest) :=
      congrArg (fun w => (decode w).map (·, rest)) (joinFields_fields (encode i))
    rw [stream, decodeOfEncode i wf]
    rfl
  · rw [encodeBytes, opField_eq_ofNat, aField_eq_ofNat, bField_eq_ofNat]

/-- Settles O6, word by word. -/
theorem listedWordsDecode : Obligations.ListedWordsDecode := by
  unfold Obligations.ListedWordsDecode
  decide

end Sys2Proof
end

section
/-! PROOF. Words that are no command at the port (30_encoding.md rule R94; 60_exceptions.md rules R251 and R253), and where the
scheduler's policies stop (30_encoding.md rule R97; 70_reset_and_hazards.md rule R293). -/

namespace Sys2Proof

/-- A word is illegal by contract exactly where it is TRIG or MORPH of instrument 3 (R94). -/
theorem decode_eq_illegalInstrument_iff (w : CmdWord) :
    decode w = .error .illegalInstrument ↔ (opField w = 1#8 ∨ opField w = 3#8) ∧ aField w = 3#8 := by
  induction w using opcode_cases with
  | trig a b | morph a b =>
    simp only [decode_trig, decode_morph, decodeInstrument_map_eq_illegalInstrument, opField_joinFields, aField_joinFields,
      true_or, or_true, true_and]
  | nop a b | render a b | silence a b | idle a b | setbw a b | setbal a b =>
    simp [decode_nop, decode_render, decode_silence, decode_idle, decode_setbw, decode_setbal,
      requireZero_ne_illegalInstrument]
  | setcc a b => simp [decode_setcc]
  | reserved w high =>
    have other : ¬ (opField w = 1#8 ∨ opField w = 3#8) := by
      rintro (op | op) <;> rw [op] at high <;> contradiction
    simp [decode_of_reserved high, other]

namespace Machine

/-- Every rejection but the illegal instrument is refused as a reserved word (R251, V5). -/
theorem refusalOf_of_ne {why : Reject} (h : why ≠ .illegalInstrument) : refusalOf why = .reservedWord why := by
  cases why with
  | illegalInstrument => exact absurd rfl h
  | reservedOpcode | unusedFieldNotZero | reservedInstrument | truncated => rfl

/-- A word that the decoder rejects is refused (R94, R253). -/
theorem runCommand_of_rejected {cmd : CmdWord} {why : Reject} (h : decode cmd = .error why) (s : State) :
    runCommand cmd s = .refused (refusalOf why) := by
  rw [runCommand, h]

/-- Settles O8: a word that no row selects is rejected, and only instrument 3 of TRIG and MORPH has the name of V1. -/
theorem stepRefusesUnlistedWords : Obligations.StepRefusesUnlistedWords := by
  intro s cmd now r w rest wf arrives unlisted
  obtain ⟨why, rejected⟩ := (selects_none_iff cmd).1 unlisted
  rw [step_command wf arrives, runCommand_of_rejected rejected]
  have named := decode_eq_illegalInstrument_iff cmd
  rw [rejected, Except.error.injEq] at named
  split_ifs with illegal
  · rw [named.2 illegal]
    rfl
  · exact ⟨why, congrArg _ (refusalOf_of_ne (mt named.1 illegal))⟩

/-- Scheduled blocks leave the configuration (R39). -/
theorem scheduledBlocks_cfg (n : Nat) (rnds : Nat → U8) (s : State) : (scheduledBlocks n rnds s).cfg = s.cfg := by
  induction n generalizing rnds s with
  | zero => rfl
  | succ n ih => exact (ih _ _).trans (renderBlock_cfg _)

/-- Scheduled blocks push BLOCK_SIZE samples each (R71, R97). -/
theorem scheduledBlocks_fifo_length (n : Nat) (rnds : Nat → U8) (s : State) :
    (scheduledBlocks n rnds s).fifo.length = s.fifo.length + s.cfg.blockSize * n := by
  induction n generalizing rnds s with
  | zero => rfl
  | succ n ih =>
    rw [scheduledBlocks, ih, renderBlock_fifo_length, renderBlock_cfg, State.scheduled_cfg, State.scheduled_fifo,
      Nat.mul_succ]
    omega

/-- RENDERALL renders as many blocks as the room holds (R97). -/
theorem renderAllWithin_eq {n : Nat} {s : State} (rnds : Nat → U8) (block : 1 ≤ s.cfg.blockSize) (h : s.freeCapacity ≤ n) :
    renderAllWithin n rnds s = .next (scheduledBlocks (s.freeCapacity / s.cfg.blockSize) rnds s) := by
  induction n generalizing rnds s with
  | zero =>
    rw [Nat.le_zero.1 h, Nat.zero_div]
    rfl
  | succ n ih =>
    rw [renderAllWithin]
    split_ifs with room
    · obtain ⟨renders, capacity⟩ := scheduled_render room (rnds 0)
      have cfg : (renderBlock (s.scheduled (rnds 0))).cfg = s.cfg := renderBlock_cfg _
      have later := ih (s := renderBlock (s.scheduled (rnds 0))) (fun j => rnds (j + 1)) (by rwa [cfg]) (by omega)
      rw [cfg] at later
      rw [renders, ← capacity, Nat.add_div_right _ block]
      exact later
    · rw [Nat.div_eq_of_lt (Nat.lt_of_not_le room)]
      rfl

/-- RENDERALL fills the sink block by block and stops with less than a block of room (R97). -/
theorem renderAll_fills {s : State} (rnds : Nat → U8) (block : 1 ≤ s.cfg.blockSize) :
    ∃ t, renderAll rnds s = .next t ∧ t.freeCapacity < s.cfg.blockSize ∧
      t.fifo.length = s.fifo.length + s.cfg.blockSize * (s.freeCapacity / s.cfg.blockSize) := by
  have length := scheduledBlocks_fifo_length (s.freeCapacity / s.cfg.blockSize) rnds s
  refine ⟨_, renderAllWithin_eq rnds block le_rfl, ?_, length⟩
  have rest := Nat.mod_lt s.freeCapacity block
  have parts := Nat.div_add_mod s.freeCapacity s.cfg.blockSize
  rw [State.freeCapacity, scheduledBlocks_cfg, length]
  have capacity : s.freeCapacity = s.cfg.outCapacity - s.fifo.length := rfl
  omega

/-- How the reference policy ends from the state `u` after its last block, in the state `t`: a playing block without room is
left waiting; otherwise one SILENCE, with the random byte `r` on its port, fills what room there is (R293). -/
def State.PolicyEnds (u t : State) (r : U8) : Prop :=
  if u.playing then u.freeCapacity < u.cfg.blockSize ∧ t = u
  else if 0 < u.freeCapacity then exec .silence (u.scheduled r) = .next t ∧ t.freeCapacity = 0
  else t = u

/-- The reference policy issues RENDER, SILENCE or nothing (R293). -/
theorem policyCommand_cases (s : State) :
    s.policyCommand = none ∨ s.policyCommand = some .render ∨ s.policyCommand = some .silence := by
  unfold State.policyCommand
  split_ifs <;> simp

/-- A full sink has room for nothing the policy would issue (R293). -/
theorem policyCommand_of_full {s : State} (block : 1 ≤ s.cfg.blockSize) (full : s.freeCapacity = 0) :
    s.policyCommand = none := by
  refine policyCommand_eq_none.2 ?_
  rw [full]
  cases s.playing with
  | true => exact .inl ⟨rfl, block⟩
  | false => exact .inr ⟨rfl, rfl⟩

/-- Where the policy issues nothing, it has ended (R293). -/
theorem policyEnds_of_none {s : State} (h : s.policyCommand = none) (r : U8) : s.PolicyEnds s r := by
  obtain ⟨playing, room⟩ | ⟨playing, room⟩ := policyCommand_eq_none.1 h <;>
    simp [State.PolicyEnds, playing, room]

theorem servicePolicyWithin_of_none {s : State} (h : s.policyCommand = none) (n : Nat) (rnds : Nat → U8) :
    servicePolicyWithin n rnds s = .next s := by
  cases n with
  | zero => rfl
  | succ n => rw [servicePolicyWithin, h]

theorem servicePolicyWithin_of_next {s t : State} {i : Instr} {rnds : Nat → U8} (h : s.policyCommand = some i)
    (runs : exec i (s.scheduled (rnds 0)) = .next t) (n : Nat) :
    servicePolicyWithin (n + 1) rnds s = servicePolicyWithin n (fun j => rnds (j + 1)) t := by
  simp only [servicePolicyWithin, h, runs]

/-- The reference policy renders blocks while `playing` and room last, and then ends (R293). -/
theorem servicePolicyWithin_ends {n : Nat} {s : State} (rnds : Nat → U8) (block : 1 ≤ s.cfg.blockSize)
    (h : s.freeCapacity ≤ n) :
    ∃ (t : State) (m : Nat), servicePolicyWithin n rnds s = .next t ∧
      (∀ j, j < m → (scheduledBlocks j rnds s).playing = true ∧ s.cfg.blockSize ≤ (scheduledBlocks j rnds s).freeCapacity) ∧
      (scheduledBlocks m rnds s).PolicyEnds t (rnds m) := by
  induction n generalizing rnds s with
  | zero =>
    have done := policyCommand_of_full block (Nat.le_zero.1 h)
    exact ⟨s, 0, rfl, nofun, policyEnds_of_none done (rnds 0)⟩
  | succ n ih =>
    obtain done | render | silence := policyCommand_cases s
    · exact ⟨s, 0, servicePolicyWithin_of_none done _ rnds, nofun, policyEnds_of_none done (rnds 0)⟩
    · obtain ⟨playing, room⟩ := policyCommand_eq_render.1 render
      obtain ⟨renders, capacity⟩ := scheduled_render room (rnds 0)
      have cfg : (renderBlock (s.scheduled (rnds 0))).cfg = s.cfg := renderBlock_cfg _
      obtain ⟨t, m, runs, blocks, ends⟩ := ih (s := renderBlock (s.scheduled (rnds 0))) (fun j => rnds (j + 1))
        (by rwa [cfg]) (by omega)
      rw [cfg] at blocks
      refine ⟨t, m + 1, (servicePolicyWithin_of_next render renders n).trans runs, fun j hj => ?_, ends⟩
      cases j with
      | zero => exact ⟨playing, room⟩
      | succ j => exact blocks j (Nat.lt_of_succ_lt_succ hj)
    · obtain ⟨playing, room⟩ := policyCommand_eq_silence.1 silence
      obtain ⟨t, fills, full, still⟩ := scheduled_silence s (rnds 0)
      have done : t.policyCommand = none := policyCommand_eq_none.2 (.inr ⟨still.trans playing, full⟩)
      refine ⟨t, 0, (servicePolicyWithin_of_next silence fills n).trans (servicePolicyWithin_of_none done n _), nofun, ?_⟩
      simp [State.PolicyEnds, scheduledBlocks, playing, room, fills, full]

/-- Settles O57: RENDERALL renders the blocks the room holds, and the policy's run is its blocks and then its end; the free
capacity bounds the commands of both. -/
theorem renderAllStopsWithoutRoom : Obligations.RenderAllStopsWithoutRoom := by
  intro s rnds block
  obtain ⟨t, m, runs, playing, ends⟩ := servicePolicyWithin_ends rnds block le_rfl
  refine ⟨renderAll_fills rnds block, t, m, runs, playing, ?_⟩
  rw [← scheduledBlocks_cfg m rnds s]
  exact ends

end Machine

end Sys2Proof
end

section
/-! PROOF. The envelope counter over its advances, and the blends (40_arithmetic.md rules R122 to R124 and R128). -/

namespace Sys2Proof.Machine

/-- One advance finishes on a carry or on increment 0, and otherwise adds the increment (R128). -/
theorem advanceEnvelope_eq (p d : U16) :
    advanceEnvelope (p, d) = if d = 0#16 ∨ 65536 ≤ p.toNat + d.toNat then (0xFFFF#16, 0#16) else (p + d, d) := by
  have pair : advanceEnvelope (p, d) = ((envadv p d).1, (envadv p d).2.1) := rfl
  rw [pair, envadv_eq]
  split_ifs <;> rfl

/-- A finished envelope stays finished (R128). -/
theorem advanceEnvelope_finished : advanceEnvelope (0xFFFF#16, 0#16) = (0xFFFF#16, 0#16) := by
  simp [advanceEnvelope_eq]

theorem toNat_ofNat_of_lt {x : Nat} (h : x < 65536) : (BitVec.ofNat 16 x).toNat = x :=
  (BitVec.toNat_ofNat x 16).trans (Nat.mod_eq_of_lt h)

/-- An envelope started at phase 0 is at the multiples of its increment until the first carry, and finished from there on
(R128, E2). -/
theorem iterate_advanceEnvelope {d : U16} (hd : d ≠ 0#16) (n : Nat) :
    advanceEnvelope^[n] (0#16, d) =
      if 65536 ≤ n * d.toNat then (0xFFFF#16, 0#16) else (BitVec.ofNat 16 (n * d.toNat), d) := by
  induction n with
  | zero => simp
  | succ n ih =>
    rw [Function.iterate_succ_apply', ih, Nat.succ_mul]
    by_cases finished : 65536 ≤ n * d.toNat
    · rw [if_pos finished, if_pos (Nat.le_add_right_of_le finished), advanceEnvelope_finished]
    · rw [if_neg finished, advanceEnvelope_eq, toNat_ofNat_of_lt (Nat.lt_of_not_le finished), BitVec.ofNat_add,
        BitVec.ofNat_toNat, BitVec.setWidth_eq]
      simp only [hd, false_or]

/-- Settles O29: the iterates in closed form, and `envFinishes_iff` at each of them for the flag. -/
theorem envelopeFinishesAtCeiling : Obligations.EnvelopeFinishesAtCeiling := by
  intro d n hd
  have iterate := iterate_advanceEnvelope hd n
  refine ⟨fun h => iterate.trans (if_neg (Nat.not_le_of_lt h)), fun h => iterate.trans (if_pos h), ?_⟩
  rw [iterate, envadv, envFinishes_iff, Nat.succ_mul]
  by_cases finished : 65536 ≤ n * d.toNat
  · simp [finished, Nat.le_add_right_of_le finished]
  · simp only [if_neg finished, toNat_ofNat_of_lt (Nat.lt_of_not_le finished), hd, false_or]

/-- `mix8` lies between its end points (R122). -/
theorem mix8_between (a b w : U8) :
    min a.toNat b.toNat ≤ (mix8 a b w).toNat ∧ (mix8 a b w).toNat ≤ max a.toNat b.toNat := by
  have value := mix8_toInt a b w
  have between := blend_between (a.toNat : Int) b.toNat (w := w.toNat) (Int.natCast_nonneg _)
    (Int.ofNat_le.2 (Nat.le_of_lt_succ w.isLt))
  omega

theorem mix8_zero (a b : U8) : mix8 a b 0 = a := by
  have value := mix8_toInt a b 0
  apply BitVec.eq_of_toNat_eq
  simpa using value

theorem mix8_self (a w : U8) : mix8 a a w = a := by
  have value := mix8_toInt a a w
  apply BitVec.eq_of_toNat_eq
  simpa using value

/-- The greatest weight (R122). -/
theorem mix8_255_toInt (a b : U8) :
    ((mix8 a b 255).toNat : Int) = (a.toNat : Int) + ((b.toNat : Int) - a.toNat) * 255 / 256 :=
  mix8_toInt a b 255

/-- At weight 255 a rising blend stops one short of its end point (R122). -/
theorem mix8_255_of_lt {a b : U8} (h : a.toNat < b.toNat) : (mix8 a b 255).toNat + 1 = b.toNat := by
  have value := mix8_255_toInt a b
  have hb := b.isLt
  omega

/-- At weight 255 a falling blend reaches its end point: the floor is toward minus infinity (R122). -/
theorem mix8_255_of_gt {a b : U8} (h : b.toNat < a.toNat) : mix8 a b 255 = b := by
  have value := mix8_255_toInt a b
  have ha := a.isLt
  apply BitVec.eq_of_toNat_eq
  omega

/-- The table index is the phase divided by 256 (R123, R124, R130). -/
theorem tableIndex_eq {p : U16} {n : Fin 256} (h : n.val = p.toNat / 256) : tableIndex p = n :=
  Fin.ext ((tableIndex_val p).trans h.symm)

/-- A difference of at most 127 either way fits 8 signed bits (R123). -/
theorem sub_toInt_of_near {x y : U8} (hx : x.toNat ≤ y.toNat + 127) (hy : y.toNat ≤ x.toNat + 127) :
    (y - x).toInt = (y.toNat : Int) - x.toNat := by
  have hlx := x.isLt
  have hly := y.isLt
  rw [BitVec.toInt_eq_toNat_cond, BitVec.toNat_sub]
  split_ifs <;> omega

/-- Settles O59: `mix8` by its exact value, and `interp8` as the `mix8` of the two entries its phase selects. -/
theorem mix8Interpolates : Obligations.Mix8Interpolates := by
  refine ⟨fun a b w => ⟨mix8_toInt a b w, (mix8_between a b w).1, (mix8_between a b w).2, mix8_zero a b, mix8_self a w,
    mix8_255_of_lt, mix8_255_of_gt⟩, ?_⟩
  intro T p n hn x y
  have blend : interp8 T p = mix8 x y (loByte p) := by rw [interp8, tableIndex_eq hn]
  have value := mix8_toInt x y (loByte p)
  rw [← blend, loByte_toNat] at value
  refine ⟨value, blend ▸ (mix8_between x y _).1, blend ▸ (mix8_between x y _).2, fun low => ?_, fun hx hy => ?_⟩
  · have zero : loByte p = 0 := BitVec.eq_of_toNat_eq ((loByte_toNat p).trans low)
    rw [blend, zero, mix8_zero]
  · rw [sub_toInt_of_near hx hy, value]

/-- Settles O60: between rising entries the exact interpolant is a sum of natural numbers. -/
theorem interp16Interpolates : Obligations.Interp16Interpolates := by
  intro T x n hn rising
  have value := interp16_toInt T x
  have between := blend_between ((T.get n.castSucc).toNat : Int) (T.get n.succ).toNat
    (w := (x.toNat % 256 : Nat)) (Int.natCast_nonneg _) (by omega)
  rw [tableIndex_eq hn] at value
  rw [← value, min_eq_left (Int.ofNat_le.2 rising), max_eq_right (Int.ofNat_le.2 rising)] at between
  refine ⟨?_, Int.ofNat_le.1 between.1, Int.ofNat_le.1 between.2⟩
  rw [← Int.ofNat_sub rising] at value
  exact_mod_cast value

end Sys2Proof.Machine
end

section
/-! PROOF. The patch-control commands and the queries, each with its word, its result and its frame (30_encoding.md rule R93;
41_patch_control.md rules R150 to R156). -/

namespace Sys2Proof

/-- The word of a command with an instrument operand (R92, R93). -/
theorem joinFields_instrument_toNat (op : U8) (i : BitVec 2) (b : U8) :
    (joinFields op (i.setWidth 8) b).toNat = 65536 * op.toNat + 256 * i.toNat + b.toNat := by
  rw [joinFields_toNat, BitVec.toNat_setWidth_of_le (by decide)]

namespace Machine

/-- Nothing but the PATCH space changed: the frame of MORPH, SETCC and SETBAL. -/
def State.SameButPatch (s t : State) : Prop :=
  s.SameVoices t ∧ t.sampleRate = s.sampleRate ∧ t.playing = s.playing ∧ t.lastEventTime = s.lastEventTime ∧
    s.SameRenderer t ∧ s.SameOutput t ∧ s.SameEnvironment t

theorem State.sameButPatch_withPatch (s : State) (m : Memory) : s.SameButPatch { s with patch := m } :=
  ⟨fun _ => rfl, rfl, rfl, rfl, ⟨rfl, rfl, rfl, rfl⟩, ⟨rfl, rfl, rfl⟩, ⟨rfl, rfl, rfl⟩⟩

/-! ### TRIG (R150) -/

/-- TRIG on a legal instrument completes. -/
theorem exec_trig {i : BitVec 2} {k : Instrument} (hi : i.toNat = k.index.val) (v : U8) (s : State) :
    exec (.trig i v) s = .next (trigger v k s) :=
  execTrig_eq_next.2 ⟨k, (instrumentOf_eq_some i k).2 hi, rfl⟩

theorem trigger_voice_same (v : U8) (k : Instrument) (s : State) : (trigger v k s).voice k = triggeredVoice s k v :=
  State.setVoice_voice_same s k _

theorem trigger_voice_ne (v : U8) {k j : Instrument} (h : j ≠ k) (s : State) : (trigger v k s).voice j = s.voice j :=
  State.setVoice_voice_ne s h _

/-- Settles O17: the struck voice is `triggeredVoice`, whose captured level is a product, and the rest stands. -/
theorem trigLatchesNote : Obligations.TrigLatchesNote := by
  intro k i v s hi
  refine ⟨joinFields_instrument_toNat 1#8 i v, trigger v k s, exec_trig hi v s, rfl, rfl, ?_⟩
  rw [trigger_voice_same]
  exact ⟨rfl, rfl, rfl, rfl, rfl, mulhi8_toNat _ _, rfl, rfl, rfl, fun j hj => trigger_voice_ne v hj s,
    fun _ => rfl, rfl, ⟨rfl, rfl, rfl, rfl⟩, ⟨rfl, rfl, rfl⟩, ⟨rfl, rfl, rfl⟩⟩

/-! ### MORPH (R151) -/

/-- MORPH on a legal instrument completes. -/
theorem exec_morph {i : BitVec 2} {k : Instrument} (hi : i.toNat = k.index.val) (v : U8) (s : State) :
    exec (.morph i v) s = .next (morph v k s) :=
  execMorph_eq_next.2 ⟨k, (instrumentOf_eq_some i k).2 hi, rfl⟩

/-- MORPH writes each of the fields 0 to 4. -/
theorem morph_patchByte_field {s : State} (hw : s.patch.wf = true) (v : U8) (k : Instrument) (f : Fin 5) :
    (morph v k s).patchByte (flatOffset k f.castSucc) = morphByte s.cfg k v f := by
  have every : ∀ f : Fin 5, f ∈ [0, 1, 2, 3, 4] := by decide
  exact (morphFields_patch v k _ hw).2.2 f (every f)

/-- MORPH writes no other byte: neither `level` nor another instrument's. -/
theorem morph_patchByte_of_outside {s : State} (hw : s.patch.wf = true) (v : U8) {k : Instrument} {o : PatchOffset}
    (outside : o.val < 6 * k.index.val ∨ 6 * k.index.val + 5 ≤ o.val) : (morph v k s).patchByte o = s.patchByte o := by
  by_contra written
  obtain ⟨f, rfl⟩ := morph_writes hw written
  have := f.isLt
  rw [flatOffset_val, Fin.val_castSucc] at outside
  omega

theorem morph_sameButPatch (v : U8) (k : Instrument) (s : State) : s.SameButPatch (morph v k s) := by
  rw [morph_eq]
  exact s.sameButPatch_withPatch _

/-- The presets that position `64*pair + pos` blends. -/
theorem morphPair_eq {v : U8} {pair : Fin 4} {pos : Fin 64} (hv : v.toNat = 64 * pair.val + pos.val) :
    morphPair v = pair := by
  have := pos.isLt
  apply Fin.ext
  rw [morphPair_val]
  omega

/-- The weight of position `64*pair + pos`. -/
theorem morphWeight_eq {v : U8} {pair : Fin 4} {pos : Fin 64} (hv : v.toNat = 64 * pair.val + pos.val) :
    (morphWeight v).toNat = 4 * pos.val := by
  have := pos.isLt
  rw [morphWeight_toNat]
  omega

/-- MORPH's byte at position `64*pair + pos` as the exact blend (R122, R151). -/
theorem morphByte_toInt (c : Config) (k : Instrument) {v : U8} {pair : Fin 4} {pos : Fin 64}
    (hv : v.toNat = 64 * pair.val + pos.val) (f : Fin 5) :
    ((morphByte c k v f).toNat : Int) = (((c.preset.get k.index).get pair.castSucc).get f).toNat +
      ((((c.preset.get k.index).get pair.succ).get f).toNat -
        (((c.preset.get k.index).get pair.castSucc).get f).toNat : Int) * (4 * pos.val) / 256 := by
  rw [morphByte, mix8_toInt, morphPair_eq hv, morphWeight_eq hv, Nat.cast_mul, Nat.cast_ofNat]

/-- Settles O18: the bytes MORPH writes are blends, and it writes no others. -/
theorem morphBlendsPresets : Obligations.MorphBlendsPresets := by
  intro k i v pair pos s hi hv hw
  refine ⟨joinFields_instrument_toNat 3#8 i v, morph v k s, exec_morph hi v s, fun f => ?_,
    fun o outside => morph_patchByte_of_outside hw v outside, morph_sameButPatch v k s⟩
  rw [morph_patchByte_field hw]
  exact morphByte_toInt s.cfg k hv f

/-- Settles O19: at the start of a pair the weight is 0. -/
theorem morphReproducesPresets : Obligations.MorphReproducesPresets := by
  intro k i v pair s hi hv hw
  refine ⟨morph v k s, exec_morph hi v s, fun f => ?_⟩
  have weight : morphWeight v = 0 := BitVec.eq_of_toNat_eq (morphWeight_eq (pos := 0) hv)
  rw [morph_patchByte_field hw, morphByte, morphPair_eq (pos := 0) hv, weight, mix8_zero]

/-- Settles O20: position 255 is position 63 of pair 3, whose weight 252 is 4/256 short of the whole difference. -/
theorem morphTopPositionError : Obligations.MorphTopPositionError := by
  intro k i s hi hw
  refine ⟨morph 255#8 k s, exec_morph hi _ s, fun f => ?_⟩
  intro p3 p4 b
  have blend : (b : Int) = p3 + ((p4 : Int) - p3) * 252 / 256 := by
    simp only [b, morph_patchByte_field hw]
    exact morphByte_toInt s.cfg k (pair := 3) (pos := 63) rfl f
  split_ifs with rises <;> omega

/-! ### SETCC (R152) -/

/-- A controller has the CC_MAP entry of its number less 16. -/
theorem ccEntry_eq_some_iff {cc : U8} {n : Fin 15} : ccEntry cc = some n ↔ cc.toNat = 16 + n.val := by
  refine ⟨fun h => (ccEntry_eq_some h).trans (Nat.add_comm _ _), fun h => ?_⟩
  have := n.isLt
  rw [ccEntry, dif_pos (by omega), Option.some_inj]
  apply Fin.ext
  simp only
  omega

/-- Outside 16..30 there is no entry. -/
theorem ccEntry_eq_none_iff {cc : U8} : ccEntry cc = none ↔ cc.toNat < 16 ∨ 30 < cc.toNat := by
  rw [← Option.not_isSome_iff_eq_none, ccEntry_isSome]
  omega

/-- Settles O21, for a controller with an entry and for one without. -/
theorem setccWritesMappedByte : Obligations.SetccWritesMappedByte := by
  intro cc v s hw
  refine ⟨joinFields_toNat 2#8 cc v, ?_⟩
  cases entry : ccEntry cc with
  | some n =>
    have number := ccEntry_eq_some_iff.1 entry
    have := n.isLt
    refine ⟨_, execSetcc_eq_next.2 (.inl ⟨n, entry, rfl⟩), fun m hm => ?_, fun outside => by omega,
      s.sameButPatch_withPatch _⟩
    obtain rfl : m = n := Fin.ext (by omega)
    refine ⟨?_, fun o ho => ?_⟩
    · rw [State.writePatch_patchByte hw, if_pos rfl, ccValue_toNat]
    · rw [State.writePatch_patchByte hw, if_neg ho]
  | none =>
    have outside := ccEntry_eq_none_iff.1 entry
    refine ⟨s, execSetcc_eq_next.2 (.inr ⟨entry, rfl⟩), fun n hn => ?_, fun _ _ => rfl, s.sameButPatch_withPatch s.patch⟩
    have := n.isLt
    omega

/-! ### SETBW, SETBAL, IDLE and NOP (R153 to R156) -/

/-- Settles O23: the inverted and shifted bandwidth as a number. -/
theorem setbwSetsDecimation : Obligations.SetbwSetsDecimation := by
  intro b s
  have rate := decimationOf_toNat b
  exact ⟨joinFields_toNat 4#8 0#8 b, _, rfl, rate, rate.trans_le (by omega), fun _ => rfl, fun _ => rfl, rfl, rfl,
    ⟨rfl, rfl, rfl, rfl⟩, ⟨rfl, rfl, rfl⟩, ⟨rfl, rfl, rfl⟩⟩

/-- The three `level` bytes after SETBAL: offsets 5, 11 and 17 (R22, R154). -/
theorem setbal_levels (m : U8) {s t : State} (hw : s.patch.wf = true) (h : execSetbal m s = .next t) :
    t.patchByte 5 = balanceBass m ∧ t.patchByte 11 = balanceSnare m ∧ t.patchByte 17 = balanceHihat m := by
  have bytes := setbal_patchByte m hw h
  exact ⟨bytes 5, bytes 11, bytes 17⟩

/-- Settles O24: the three levels on each side of the midpoint, and no byte but theirs. -/
theorem setbalSetsLevels : Obligations.SetbalSetsLevels := by
  intro m s hw
  refine ⟨joinFields_toNat 5#8 0#8 m, _, rfl, ?_, fun o ho => ?_, s.sameButPatch_withPatch _⟩
  · obtain ⟨bass, snare, hihat⟩ := setbal_levels m hw rfl
    rw [bass, snare, hihat, balanceHihat_toNat, balanceBass_toNat, balanceSnare_toNat]
    split_ifs with low
    · exact ⟨rfl, rfl, Nat.mul_div_cancel_left _ two_pos⟩
    · exact ⟨rfl, rfl, rfl⟩
  · by_contra written
    exact ho (execSetbal_writes hw rfl written)

/-- Settles O25: the difference on 32 bits is the difference of the numbers modulo 2^32. -/
theorem idleAnswersElapsedTime : Obligations.IdleAnswersElapsedTime := by
  refine ⟨rfl, fun s => ⟨_, elapsed s.inputs.nowMs s.lastEventTime, rfl, rfl, ?_⟩⟩
  have := s.lastEventTime.isLt
  rw [elapsed_toNat]
  omega

/-- Settles O26: the meaning of NOP is the state it is given. -/
theorem nopChangesNothing : Obligations.NopChangesNothing := ⟨rfl, fun _ => rfl⟩

end Machine

end Sys2Proof
end

section
/-! PROOF. The modulation engine UPDMOD (42_modulation.md rules R180 to R189): what it leaves, the envelopes, the levels, the
pitches, and for how many blocks a note plays. -/

namespace Sys2Proof.Machine

/-! ### The frame (R180) -/

/-- UPDMOD leaves the primary phase of a voice (R180). -/
theorem updmod_phase (s : State) (k : Instrument) : ((updmod s).voice k).phase = (s.voice k).phase := by
  cases k <;> simp [updmod_voice_bd, updmod_voice_sd, updmod_voice_hh, updateVoice_voice_same]

/-- Settles O33: UPDMOD writes voice registers and `playing` only, and of a voice neither `phase` nor `level`. -/
theorem updmodFrame : Obligations.UpdmodFrame := by
  intro s
  obtain ⟨fixed, sampling⟩ := updmod_same s
  exact ⟨fun k => ⟨updmod_phase s k, updmod_level s k⟩, fun o => congrArg (Memory.read · o.val) fixed.patch,
    fixed.sampleRate, fixed.lastEventTime,
    ⟨sampling.sample, sampling.sampleCounter, sampling.noise, fixed.fadeCounter⟩,
    ⟨sampling.fifo, fixed.drained, fixed.responses⟩, ⟨fixed.cfg, fixed.inputs, fixed.arrivals⟩⟩

/-! ### The amplitude envelopes and `playing` (R181) -/

/-- The amplitude envelope of a voice: its pair (phase, increment). -/
def DrumState.ampEnvelope (d : DrumState) : U16 × U16 := (d.ampEnvPhase, d.ampEnvIncrement)

theorem DrumState.ampFinished_iff (d : DrumState) : d.ampFinished ↔ d.ampEnvelope = (0xFFFF#16, 0#16) :=
  Prod.mk_inj.symm

/-- UPDMOD is one advance of each amplitude envelope (R181). -/
theorem updmod_advances_ampEnvelope (s : State) (k : Instrument) :
    ((updmod s).voice k).ampEnvelope = advanceEnvelope (s.voice k).ampEnvelope := by
  obtain ⟨phase, increment⟩ := updmod_ampEnvelope s k
  exact Prod.ext phase increment

/-- `playing` after UPDMOD is set exactly when some advance did not finish (R181). -/
theorem updmod_playing_iff (s : State) :
    (updmod s).playing = true ↔ ∃ k, envFinishes (s.voice k).ampEnvPhase (s.voice k).ampEnvIncrement = false := by
  rw [updmod_playing, Bool.or_eq_true, Bool.or_eq_true, Bool.not_eq_true', Bool.not_eq_true', Bool.not_eq_true']
  constructor
  · rintro ((bd | sd) | hh)
    · exact ⟨.bd, bd⟩
    · exact ⟨.sd, sd⟩
    · exact ⟨.hh, hh⟩
  · rintro ⟨k, running⟩
    cases k with
    | bd => exact .inl (.inl running)
    | sd => exact .inl (.inr running)
    | hh => exact .inr running

/-- Settles O30: the envelope's pair by `advanceEnvelope_eq` on each side of the finish, and the flag by `envFinishes_iff`. -/
theorem updmodAdvancesAmplitudeEnvelopes : Obligations.UpdmodAdvancesAmplitudeEnvelopes := by
  intro s
  refine ⟨fun k => ?_, ?_⟩
  · intro p d
    have advance : ((updmod s).voice k).ampEnvelope =
        if d = 0 ∨ 65536 ≤ p.toNat + d.toNat then (0xFFFF#16, 0#16) else (p + d, d) :=
      (updmod_advances_ampEnvelope s k).trans (advanceEnvelope_eq p d)
    split_ifs at advance ⊢ with finishes
    · exact (DrumState.ampFinished_iff _).2 advance
    · obtain ⟨phase, increment⟩ := Prod.mk.inj advance
      have noCarry : p.toNat + d.toNat < 65536 := Nat.lt_of_not_le (not_or.1 finishes).2
      exact ⟨by rw [phase, BitVec.toNat_add, Nat.mod_eq_of_lt noCarry], increment⟩
  · rw [updmod_playing_iff]
    refine exists_congr fun k => ?_
    rw [← Bool.not_eq_true, envFinishes_iff, not_or, Nat.not_le]
    rfl

/-! ### How long a note plays (R181 (a)) -/

/-- An advance that does not finish is one that leaves an increment to add (R128). -/
theorem envNextIncrement_ne_zero_iff (p d : U16) : envNextIncrement p d ≠ 0#16 ↔ envFinishes p d = false := by
  unfold envNextIncrement
  split_ifs with finishes
  · simp [finishes]
  · have nonzero := (not_or.1 (mt (envFinishes_iff p d).2 finishes)).1
    simp [finishes, nonzero]

/-- SAMPLE leaves the amplitude envelopes, so a block is one advance of each (R181, R213). -/
theorem renderBlock_ampEnvelope (s : State) (k : Instrument) :
    ((renderBlock s).voice k).ampEnvelope = advanceEnvelope (s.voice k).ampEnvelope := by
  have levels := samplePeriods_levels s.cfg.blockSize (updmod s) k
  exact (Prod.ext levels.ampEnvPhase levels.ampEnvIncrement).trans (updmod_advances_ampEnvelope s k)

/-- After a block `playing` says whether some amplitude envelope has an increment left (R181). -/
theorem renderBlock_playing_iff (s : State) :
    (renderBlock s).playing = true ↔ ∃ k, ((renderBlock s).voice k).ampEnvIncrement ≠ 0#16 := by
  have playing : (renderBlock s).playing = (updmod s).playing := (samplePeriods_same s.cfg.blockSize (updmod s)).2
  rw [playing, updmod_playing_iff]
  refine exists_congr fun k => ?_
  have increment : ((renderBlock s).voice k).ampEnvIncrement = envNextIncrement _ _ :=
    congrArg Prod.snd (renderBlock_ampEnvelope s k)
  rw [increment]
  exact (envNextIncrement_ne_zero_iff _ _).symm

/-- One more block after a list of blocks. -/
theorem renderBlocks_concat (rnds : List U8) (r : U8) (s : State) :
    renderBlocks (rnds ++ [r]) s =
      renderBlock { renderBlocks rnds s with inputs := { (renderBlocks rnds s).inputs with rnd := r } } := by
  rw [renderBlocks, List.foldl_concat]
  rfl

/-- Each block is one advance, whatever its random byte is (R181). -/
theorem renderBlocks_ampEnvelope (rnds : List U8) (s : State) (k : Instrument) :
    ((renderBlocks rnds s).voice k).ampEnvelope = advanceEnvelope^[rnds.length] (s.voice k).ampEnvelope := by
  induction rnds using List.reverseRecOn with
  | nil => rfl
  | append_singleton rnds r ih =>
    rw [renderBlocks_concat, renderBlock_ampEnvelope, List.length_append, List.length_singleton,
      Function.iterate_succ_apply', ← ih]
    rfl

/-- The last of some blocks says whether some amplitude envelope has an increment left. -/
theorem renderBlocks_playing_iff {rnds : List U8} (blocks : rnds ≠ []) (s : State) :
    (renderBlocks rnds s).playing = true ↔ ∃ k, ((renderBlocks rnds s).voice k).ampEnvIncrement ≠ 0#16 := by
  obtain ⟨rnds, r, rfl⟩ := (List.eq_nil_or_concat' rnds).resolve_left blocks
  rw [renderBlocks_concat]
  exact renderBlock_playing_iff _

/-- Blocks leave a finished voice without an increment (R12, R128). -/
theorem renderBlocks_ampEnvIncrement_of_finished {s : State} {j : Instrument} (finished : (s.voice j).ampFinished)
    (rnds : List U8) : ((renderBlocks rnds s).voice j).ampEnvIncrement = 0#16 := by
  have envelope := renderBlocks_ampEnvelope rnds s j
  rw [(DrumState.ampFinished_iff _).1 finished, Function.iterate_fixed advanceEnvelope_finished] at envelope
  exact congrArg Prod.snd envelope

/-- A voice at the start of its envelope has an increment left after some blocks exactly while that many increments stay
below the carry (R128, R181). -/
theorem renderBlocks_ampEnvIncrement_ne_zero_iff {s : State} {k : Instrument} (start : (s.voice k).ampEnvPhase = 0#16)
    (nonzero : (s.voice k).ampEnvIncrement ≠ 0#16) (rnds : List U8) :
    ((renderBlocks rnds s).voice k).ampEnvIncrement ≠ 0#16 ↔
      rnds.length * (s.voice k).ampEnvIncrement.toNat < 65536 := by
  have envelope := renderBlocks_ampEnvelope rnds s k
  rw [DrumState.ampEnvelope, DrumState.ampEnvelope, start, iterate_advanceEnvelope nonzero] at envelope
  have increment := congrArg Prod.snd envelope
  split_ifs at increment with carried
  · exact iff_of_false (not_not_intro increment) (Nat.not_lt_of_le carried)
  · exact iff_of_true (increment.trans_ne nonzero) (Nat.lt_of_not_le carried)

/-- Settles O35: TRIG starts the struck envelope at phase 0 and leaves the finished ones, so `playing` follows the increment
of the struck voice. -/
theorem notePlaysForItsEnvelope : Obligations.NotePlaysForItsEnvelope := by
  intro k i v s t rnds hi finished strikes nonzero blocks
  obtain rfl : trigger v k s = t := Host.Outcome.next.inj ((exec_trig hi v s).symm.trans strikes)
  have start : ((trigger v k s).voice k).ampEnvPhase = 0#16 := by
    rw [trigger_voice_same]
    rfl
  have others (j : Instrument) (hj : j ≠ k) : ((trigger v k s).voice j).ampFinished := by
    rw [trigger_voice_ne v hj]
    exact finished j hj
  rw [renderBlocks_playing_iff blocks, ← renderBlocks_ampEnvIncrement_ne_zero_iff start nonzero]
  refine ⟨fun ⟨j, left⟩ => ?_, fun left => ⟨k, left⟩⟩
  by_cases hj : j = k
  · exact hj ▸ left
  · exact absurd (renderBlocks_ampEnvIncrement_of_finished (others j hj) rnds) left

/-! ### The levels (R182, R188, R189) -/

/-- The level A of steps 1 to 5, the curve read at the phase UPDMOD leaves (R182). -/
theorem updateVoice_ampLevel_toNat (s : State) (k : Instrument) :
    ((updateVoice s k).voice k).ampLevel.toNat =
      (interp8 s.cfg.envCurve ((updmod s).voice k).ampEnvPhase).toNat * (s.voice k).level.toNat / 256 := by
  rw [(updmod_ampEnvelope s k).1, updateVoice_voice_same]
  exact mulhi8_toNat _ _

/-- Two complementary weights of divisor 255 split a level without loss but for one unit of rounding (R188). -/
theorem split255_sum (a : Nat) {c : Nat} (hc : c ≤ 255) :
    a * (255 - c) / 255 + a * c / 255 = a ∨ a * (255 - c) / 255 + a * c / 255 + 1 = a := by
  have parts : a * (255 - c) + a * c = a * 255 := by rw [← Nat.mul_add, Nat.sub_add_cancel hc]
  omega

/-- Settles O31: A by `updateVoice_ampLevel_toNat`, and step 6 for the snare and the hi-hat. -/
theorem updmodComputesLevels : Obligations.UpdmodComputesLevels := by
  intro s t A c
  have level (k : Instrument) : ((updateVoice s k).voice k).ampLevel.toNat = A k := updateVoice_ampLevel_toNat s k
  have hc : c ≤ 255 := Nat.le_of_lt_succ (s.field .sd .crunchiness).isLt
  have tone : (t.voice .sd).ampLevel.toNat = A .sd * (255 - c) / 255 := by
    rw [← level .sd, updmod_voice_sd]
    exact div255_toNat (byte_mul_le _ (Nat.sub_le _ _))
  have noise : (t.voice .sd).ampLevelNoise.toNat = A .sd * c / 255 := by
    rw [← level .sd, updmod_voice_sd]
    exact div255_toNat (byte_mul_le _ hc)
  refine ⟨?_, updmod_bassNoiseLevel s, tone, noise, ?_, ?_, ?_⟩
  · rw [← level .bd, updmod_voice_bd]
  · rw [tone, noise]
    exact split255_sum _ hc
  · rw [← level .hh, updmod_voice_hh]
  · rw [updmod_voice_hh]

/-! ### The pitches and the increments (R183 to R185, R187) -/

/-- UPDMOD leaves the second operator's phase of the hi-hat (R184). -/
theorem updmod_hihat_pitchEnvPhase (s : State) :
    ((updmod s).voice .hh).pitchEnvPhase = (s.voice .hh).pitchEnvPhase := by
  rw [updmod_voice_hh, updateVoice_voice_same]
  rfl

/-- The increment of a voice is the one its pitch gives in the state UPDMOD leaves: the pitch reads only what stands from
step 3 on (R184, R185). -/
theorem oscillatorIncrement_pitchEnvelopeStep (s : State) (k : Instrument) :
    oscillatorIncrement k (pitchEnvelopeStep k s) = oscillatorIncrement k (updmod s) := by
  refine oscillatorIncrement_congr ((updmod_same s).1.symm.trans (pitchEnvelopeStep_same k s).1) k ?_
  cases k with
  | bd => rw [(updmod_pitchEnvelope s (by decide)).1, pitchEnvelopeStep_voice, if_pos (by decide)]
  | sd => rw [(updmod_pitchEnvelope s (by decide)).1, pitchEnvelopeStep_voice, if_pos (by decide)]
  | hh => exact (updmod_hihat_pitchEnvPhase s).symm

/-- The primary increment of a drum (R185). -/
theorem updmod_phaseIncrement (s : State) {k : Instrument} (hk : k ≠ .hh) :
    ((updmod s).voice k).phaseIncrement = oscillatorIncrement k (updmod s) := by
  rw [← oscillatorIncrement_pitchEnvelopeStep]
  cases k with
  | bd => simp [updmod_voice_bd, updateVoice_voice_same]
  | sd => simp [updmod_voice_sd, updateVoice_voice_same]
  | hh => exact absurd rfl hk

/-- The two increments of the hi-hat (R187). -/
theorem updmod_hihat_increments (s : State) :
    ((updmod s).voice .hh).pitchEnvIncrement = oscillatorIncrement .hh (updmod s) ∧
      ((updmod s).voice .hh).phaseIncrement = threeHalves (oscillatorIncrement .hh (updmod s)) := by
  simp [← oscillatorIncrement_pitchEnvelopeStep, updmod_voice_hh, updateVoice_voice_same]

theorem threeHalves_toNat (inc : U16) : (threeHalves inc).toNat = 3 * inc.toNat / 2 % 65536 := by
  have sum : inc.toNat + inc.toNat / 2 = 3 * inc.toNat / 2 := by omega
  rw [threeHalves, BitVec.toNat_ofNat, sum]

/-- UPDMOD leaves what the base pitch reads: the patch and the random byte (R183). -/
theorem basePitch_updmod (s : State) (k : Instrument) : basePitch k (updmod s) = basePitch k s := by
  have fixed := (updmod_same s).1
  cases k <;> simp only [basePitch, fixed.field, fixed.inputs]

/-- The bass drum's base pitch with its jitter (R183). -/
theorem basePitch_bd (s : State) : basePitch .bd s =
    256 * (s.field .bd .pitch).toNat + s.inputs.rnd.toNat * (s.field .bd .crunchiness).toNat / 256 := by
  rw [basePitch, mulhi8_toNat]

/-- What the pitch envelope of a drum adds, at the phase UPDMOD leaves (R184). -/
theorem pitchModulation_updmod (s : State) {k : Instrument} (hk : k ≠ .hh) : pitchModulation k (updmod s) =
    (s.field k .pitchMod).toNat * (interp8 s.cfg.envCurve ((updmod s).voice k).pitchEnvPhase).toNat := by
  have fixed := (updmod_same s).1
  cases k with
  | bd | sd => rw [← fixed.field, ← fixed.cfg]; rfl
  | hh => exact absurd rfl hk

/-- The increment of an instrument from its base pitch and what its pitch envelope adds (R183 to R185). -/
theorem oscillatorIncrement_updmod (s : State) (k : Instrument) : oscillatorIncrement k (updmod s) =
    interp16 s.cfg.phaseInc (BitVec.ofNat 16 (basePitch k s + pitchModulation k (updmod s))) := by
  rw [oscillatorIncrement, pitchOf, basePitch_updmod, (updmod_same s).1.cfg]

/-- The primary increment of a drum in numbers (R183 to R185). -/
theorem updmod_drum_phaseIncrement (s : State) {k : Instrument} (hk : k ≠ .hh) :
    ((updmod s).voice k).phaseIncrement = interp16 s.cfg.phaseInc (BitVec.ofNat 16 (basePitch k s +
      (s.field k .pitchMod).toNat * (interp8 s.cfg.envCurve ((updmod s).voice k).pitchEnvPhase).toNat)) := by
  rw [updmod_phaseIncrement s hk, oscillatorIncrement_updmod, pitchModulation_updmod s hk]

/-- Settles O32: the drums by `updmod_drum_phaseIncrement`, the bass drum with its jitter; the hi-hat's pitch is its base
pitch alone; the pitch envelopes by `updmod_pitchEnvelope`. -/
theorem updmodComputesIncrements : Obligations.UpdmodComputesIncrements := by
  intro s t jitter bend base inc
  have bass := updmod_drum_phaseIncrement s (show Instrument.bd ≠ .hh by decide)
  rw [basePitch_bd] at bass
  have hihat : oscillatorIncrement .hh t = inc := oscillatorIncrement_updmod s .hh
  obtain ⟨second, primary⟩ := updmod_hihat_increments s
  refine ⟨bass, updmod_drum_phaseIncrement s (by decide), second.trans hihat, ?_, updmod_hihat_pitchEnvPhase s,
    fun k hk => ?_⟩
  · rw [← hihat, ← threeHalves_toNat, ← primary]
  · obtain ⟨phase, increment⟩ := updmod_pitchEnvelope s hk
    exact Prod.ext phase increment

end Sys2Proof.Machine
end

section
/-! PROOF. The renderer (43_render.md rules R210 to R225): the noise generator, the phases, the hi-hat's flag and raw level,
the mix, the decimation, and the fade-out of SILENCE. -/

namespace Sys2Proof.Machine

/-! ### RENDER (R210) -/

/-- A block as iterates of SAMPLE (R210, R222). -/
theorem renderBlock_eq_iterate (s : State) :
    renderBlock s = { samplePeriod^[s.cfg.blockSize] (updmod s) with fadeCounter := 255 } := by
  rw [renderBlock, samplePeriods_eq_iterate]

/-- Settles O36, with room for a block and without. -/
theorem renderRunsOneBlock : Obligations.RenderRunsOneBlock := by
  refine ⟨rfl, fun s honest => execRender_eq_next.2 ⟨honest, ?_⟩⟩
  by_cases room : s.cfg.blockSize ≤ s.inputs.writable
  · exact .inl ⟨room, by rw [if_pos room, renderBlock_eq_iterate]⟩
  · exact .inr ⟨Nat.lt_of_not_le room, if_neg room⟩

/-! ### The noise generator (R212) -/

/-- The noise step is affine on the ring of bytes. -/
theorem noiseStep_eq (n : U8) : noiseStep n = 73 * n + 1 := by
  apply BitVec.eq_of_toNat_eq
  rw [noiseStep_toNat, BitVec.toNat_add, BitVec.toNat_mul, Nat.mod_add_mod, Nat.mul_comm]
  rfl

/-- The iterates of an affine step: the offset is the iterate at 0. -/
theorem iterate_noiseStep (j : Nat) (n : U8) : noiseStep^[j] n = 73 ^ j * n + noiseStep^[j] 0 := by
  induction j with
  | zero => simp
  | succ j ih =>
    rw [Function.iterate_succ_apply', Function.iterate_succ_apply', ih, noiseStep_eq, noiseStep_eq]
    ring

/-- 32 steps are an addition: 73^32 is 1 on bytes. -/
theorem iterate_noiseStep_32 (n : U8) : noiseStep^[32] n = n + 160 := by
  have multiplier : (73 : U8) ^ 32 = 1 := by decide
  have offset : noiseStep^[32] 0 = 160 := by decide
  rw [iterate_noiseStep, multiplier, offset, one_mul]

theorem iterate_noiseStep_mul_32 (m : Nat) (n : U8) : noiseStep^[32 * m] n = n + m • 160 := by
  rw [Function.iterate_mul, funext iterate_noiseStep_32, add_right_iterate]

/-- 128 steps flip the top bit. -/
theorem iterate_noiseStep_128 (n : U8) : noiseStep^[128] n = n + 128 := iterate_noiseStep_mul_32 4 n

theorem iterate_noiseStep_256 (n : U8) : noiseStep^[256] n = n :=
  (iterate_noiseStep_mul_32 8 n).trans (add_zero n)

/-- The period of every byte divides 256 and does not divide 128 (R212). -/
theorem minimalPeriod_noiseStep (n : U8) : Function.minimalPeriod noiseStep n = 256 := by
  have moved : ¬ Function.IsPeriodicPt noiseStep (2 ^ 7) n := by
    intro periodic
    have fixed : n + 128 = n + 0 := by
      rw [add_zero, ← iterate_noiseStep_128]
      exact periodic
    exact absurd (add_left_cancel fixed) (by decide)
  exact Function.minimalPeriod_eq_prime_pow moved (iterate_noiseStep_256 n)

/-- A cycle of 256 different bytes holds every byte. -/
theorem exists_iterate_noiseStep_eq (n m : U8) : ∃ j, j < 256 ∧ noiseStep^[j] n = m := by
  have distinct : Function.Injective fun j : Fin 256 => (noiseStep^[j.val] n).toFin := by
    intro i j h
    have below (k : Fin 256) : k.val ∈ Set.Iio (Function.minimalPeriod noiseStep n) := by
      rw [minimalPeriod_noiseStep]
      exact k.isLt
    exact Fin.ext (Function.iterate_injOn_Iio_minimalPeriod (below i) (below j) (BitVec.eq_of_toFin_eq h))
  obtain ⟨j, hj⟩ := Finite.surjective_of_injective distinct m.toFin
  exact ⟨j.val, j.isLt, BitVec.eq_of_toFin_eq hj⟩

/-- Settles O38: the period is 256 by `minimalPeriod_noiseStep`, and an odd multiplier and offset flip the low bit. -/
theorem noiseVisitsEveryByte : Obligations.NoiseVisitsEveryByte := by
  refine ⟨fun s => noiseStep_toNat s.noise,
    fun n => ⟨iterate_noiseStep_256 n, exists_iterate_noiseStep_eq n, ?_⟩⟩
  rw [noiseStep_toNat]
  omega

/-! ### The phases (R213) -/

/-- One addition before `n` more of the same increment. -/
theorem acc16_add_mul (p d : U16) (n : Nat) :
    ((acc16 p d).toNat + n * d.toNat) % 65536 = (p.toNat + (n + 1) * d.toNat) % 65536 := by
  rw [acc16_toNat, Nat.mod_add_mod, Nat.succ_mul, Nat.add_assoc, Nat.add_comm d.toNat]

theorem samplePeriod_phase (s : State) (k : Instrument) :
    ((samplePeriod s).voice k).phase = acc16 (s.voice k).phase (s.voice k).phaseIncrement := by
  cases k <;> rfl

/-- Over `n` samples a primary phase advances by `n` increments (R213). -/
theorem samplePeriods_phase_toNat (n : Nat) (s : State) (k : Instrument) :
    ((samplePeriods n s).voice k).phase.toNat =
      ((s.voice k).phase.toNat + n * (s.voice k).phaseIncrement.toNat) % 65536 := by
  induction n generalizing s with
  | zero => simp [samplePeriods, Nat.mod_eq_of_lt (s.voice k).phase.isLt]
  | succ n ih => rw [samplePeriods, ih, samplePeriod_phase, (samplePeriod_levels s k).phaseIncrement, acc16_add_mul]

theorem samplePeriod_secondOperator (s : State) :
    ((samplePeriod s).voice .hh).pitchEnvPhase = acc16 (s.voice .hh).pitchEnvPhase (s.voice .hh).pitchEnvIncrement := rfl

/-- Over `n` samples the hi-hat's second operator advances by `n` increments (R29, R213). -/
theorem samplePeriods_secondOperator_toNat (n : Nat) (s : State) :
    ((samplePeriods n s).voice .hh).pitchEnvPhase.toNat =
      ((s.voice .hh).pitchEnvPhase.toNat + n * (s.voice .hh).pitchEnvIncrement.toNat) % 65536 := by
  induction n generalizing s with
  | zero => simp [samplePeriods, Nat.mod_eq_of_lt (s.voice .hh).pitchEnvPhase.isLt]
  | succ n ih =>
    rw [samplePeriods, ih, samplePeriod_secondOperator, (samplePeriod_levels s .hh).pitchEnvIncrement, acc16_add_mul]

/-- Settles O39: the four accumulators by induction on the samples, and the rest of a voice by `samplePeriods_levels`. -/
theorem phasesAdvancePerSample : Obligations.PhasesAdvancePerSample := by
  intro n s t
  have iterate : t = samplePeriods n s := (samplePeriods_eq_iterate n s).symm
  rw [iterate]
  refine ⟨fun k => ?_, samplePeriods_secondOperator_toNat n s, fun k hk => samplePeriods_pitchEnvPhase n s hk⟩
  have levels := samplePeriods_levels n s k
  exact ⟨samplePeriods_phase_toNat n s k, levels.ampEnvPhase, levels.ampEnvIncrement, levels.pitchEnvIncrement,
    levels.phaseIncrement, levels.level, levels.ampLevel, levels.ampLevelNoise⟩

/-! ### The hi-hat (R217, R218) -/

theorem hiByte_getLsbD (v : U16) {i : Nat} (h : i < 8) : (hiByte v).getLsbD i = v.getLsbD (8 + i) := by
  simp [hiByte, h]

/-- Settles O42: the bits of the high bytes are bits 8 up of the registers. -/
theorem hihatFlagBits : Obligations.HihatFlagBits := by
  intro p e
  simp only [hihatInverted, hiByte_getLsbD, Nat.reduceLT, Nat.reduceAdd, Bool.or_eq_false_iff,
    bne_eq_false_iff_eq, and_assoc]

/-- A byte is odd exactly when its low bit is set. -/
theorem getLsbD_zero_eq_true_iff (n : U8) : n.getLsbD 0 = true ↔ n.toNat % 2 = 1 := by
  rw [BitVec.getLsbD, Nat.testBit_zero, decide_eq_true_iff]

theorem hihatRaw_of_even {noise : U8} (even : noise.toNat % 2 = 0) (c : Config) (inv : Bool) (a : U8) :
    hihatRaw c inv noise a = if inv then c.hhNeg.toInt else c.hhPos.toInt := by
  refine if_neg (mt (getLsbD_zero_eq_true_iff noise).1 ?_)
  omega

theorem hihatRaw_of_odd {noise : U8} (odd : noise.toNat % 2 = 1) (c : Config) (inv : Bool) (a : U8) :
    hihatRaw c inv noise a = if inv then hihatNoiseMagnitude noise a else -hihatNoiseMagnitude noise a :=
  if_pos ((getLsbD_zero_eq_true_iff noise).2 odd)

/-- The range of a signed byte (R10). -/
theorem toInt_range (v : I8) : -128 ≤ v.toInt ∧ v.toInt ≤ 127 :=
  ⟨BitVec.le_toInt v, Int.le_of_lt_add_one BitVec.toInt_lt⟩

/-- The noise-dependent magnitude is below 128: a product of two bytes by 512 (R218). -/
theorem hihatNoiseMagnitude_range (noise a : U8) : 0 ≤ hihatNoiseMagnitude noise a ∧ hihatNoiseMagnitude noise a ≤ 127 := by
  have product := byte_mul_le noise (Nat.le_of_lt_succ a.isLt)
  rw [hihatNoiseMagnitude]
  omega

/-- The hi-hat's raw level is in the range of a signed sample (R218). -/
theorem hihatRaw_range (c : Config) (inv : Bool) (noise a : U8) :
    -128 ≤ hihatRaw c inv noise a ∧ hihatRaw c inv noise a ≤ 127 := by
  rcases Nat.mod_two_eq_zero_or_one noise.toNat with even | odd
  · rw [hihatRaw_of_even even]
    split_ifs <;> exact toInt_range _
  · rw [hihatRaw_of_odd odd]
    have magnitude := hihatNoiseMagnitude_range noise a
    split_ifs <;> omega

/-- Settles O43: the two parities of the noise, and the range. -/
theorem hihatRawLevel : Obligations.HihatRawLevel := by
  intro c inv noise a
  exact ⟨fun even => hihatRaw_of_even even c inv a, fun odd => hihatRaw_of_odd odd c inv a, hihatRaw_range c inv noise a⟩

/-! ### The mix (R214 to R216, R219, R220, R225) -/

/-- Settles O41: each contribution is a signed sample times a level, and the mix is their sum on 128. -/
theorem contributionsInRange : Obligations.ContributionsInRange := by
  intro s
  have signal (u level : U8) : -128 ≤ smul8 (ctr u) level ∧ smul8 (ctr u) level ≤ 126 :=
    smul8_range (ctr_range u).1 (ctr_range u).2 level
  have bd : -128 ≤ bassContribution s ∧ bassContribution s ≤ 126 := signal _ _
  have sdt : -128 ≤ snareTone s ∧ snareTone s ≤ 126 := signal _ _
  have sdn : -128 ≤ snareNoise s ∧ snareNoise s ≤ 126 := signal _ _
  have hh : -128 ≤ hihatContribution s ∧ hihatContribution s ≤ 126 :=
    smul8_range (hihatRaw_range _ _ _ _).1 (hihatRaw_range _ _ _ _).2 _
  refine ⟨bd, sdt, sdn, hh, ?_⟩
  rw [mixOf]
  omega

/-- Settles O40: the mixed sample is the saturated sum, whose terms are the contributions by definition. -/
theorem mixedSampleFormula : Obligations.MixedSampleFormula := fun s =>
  sat8_toInt (mixOf (bassContribution s) (snareTone s) (snareNoise s) (hihatContribution s))

/-- Samples move no level, so silent voices stay silent. -/
theorem iterate_samplePeriod_silent {s : State} (h : s.Silent) (n : Nat) : (samplePeriod^[n] s).Silent := by
  induction n with
  | zero => exact h
  | succ n ih =>
    rw [Function.iterate_succ_apply']
    exact samplePeriod_silent ih

/-- Settles O46: the voices stay silent, and silent voices mix to 128. -/
theorem silentVoicesMixToCentre : Obligations.SilentVoicesMixToCentre := by
  intro s n levels snareNoise
  have silent : s.Silent := ⟨levels, snareNoise⟩
  exact mixedSample_of_silent (startPeriod_silent (iterate_samplePeriod_silent silent n))

/-! ### The decimation (R221) -/

/-- A period in which the counter exceeds the factor: the held sample updates. -/
theorem samplePeriod_of_fires {s : State} (fires : s.sampleRate.toNat < (s.sampleCounter.toNat + 1) % 256) :
    samplePeriod s = { startPeriod s with
      sample := mixedSample (startPeriod s), sampleCounter := 0, fifo := s.fifo ++ [mixedSample (startPeriod s)] } := by
  have test : decimationFires s.sampleCounter s.sampleRate = true := decide_eq_true fires
  rw [samplePeriod_eq, test]
  rfl

/-- A period in which it does not: the held sample is repeated. -/
theorem samplePeriod_of_holds {s : State} (holds : ¬ s.sampleRate.toNat < (s.sampleCounter.toNat + 1) % 256) :
    samplePeriod s = { startPeriod s with sampleCounter := s.sampleCounter + 1, fifo := s.fifo ++ [s.sample] } := by
  have test : decimationFires s.sampleCounter s.sampleRate = false := decide_eq_false holds
  rw [samplePeriod_eq, test]
  rfl

/-- Settles O44, on each side of the decimation test. -/
theorem sampleDecimatesAndPushes : Obligations.SampleDecimatesAndPushes := by
  intro s u
  split_ifs with fires
  · exact samplePeriod_of_fires fires
  · exact samplePeriod_of_holds fires

/-- Samples leave the decimation factor (R24). -/
theorem iterate_samplePeriod_sampleRate (n : Nat) (s : State) : (samplePeriod^[n] s).sampleRate = s.sampleRate := by
  rw [← samplePeriods_eq_iterate]
  exact (samplePeriods_same n s).1.sampleRate

/-- From counter 0 the held sample is repeated while the counter is at most the factor (R221). -/
theorem iterate_samplePeriod_holds {s : State} (start : s.sampleCounter = 0) {n : Nat} (h : n ≤ s.sampleRate.toNat) :
    (samplePeriod^[n] s).sample = s.sample ∧ (samplePeriod^[n] s).sampleCounter.toNat = n ∧
      (samplePeriod^[n] s).fifo = s.fifo ++ List.replicate n s.sample := by
  induction n with
  | zero => exact ⟨rfl, congrArg BitVec.toNat start, (List.append_nil _).symm⟩
  | succ n ih =>
    obtain ⟨sample, counter, fifo⟩ := ih (Nat.le_of_succ_le h)
    have bound : n + 1 < 256 := h.trans_lt s.sampleRate.isLt
    have holds : ¬ (samplePeriod^[n] s).sampleRate.toNat < ((samplePeriod^[n] s).sampleCounter.toNat + 1) % 256 := by
      rw [iterate_samplePeriod_sampleRate, counter, Nat.mod_eq_of_lt bound]
      exact Nat.not_lt_of_le h
    rw [Function.iterate_succ_apply', samplePeriod_of_holds holds]
    refine ⟨sample, ?_, ?_⟩
    · rw [BitVec.toNat_add, counter]
      exact Nat.mod_eq_of_lt bound
    · rw [fifo, sample, List.replicate_succ', List.append_assoc]

/-- Settles O45: the counter runs up to the factor by `iterate_samplePeriod_holds`, and the next period fires. -/
theorem heldSampleChangesOncePerPeriod : Obligations.HeldSampleChangesOncePerPeriod := by
  intro s n start rate
  refine ⟨fun h => iterate_samplePeriod_holds start h, ?_⟩
  rintro rfl
  obtain ⟨-, counter, -⟩ := iterate_samplePeriod_holds start (le_refl s.sampleRate.toNat)
  have fires : (samplePeriod^[s.sampleRate.toNat] s).sampleRate.toNat <
      ((samplePeriod^[s.sampleRate.toNat] s).sampleCounter.toNat + 1) % 256 := by
    rw [iterate_samplePeriod_sampleRate, counter]
    omega
  rw [Function.iterate_succ_apply', samplePeriod_of_fires fires]
  exact ⟨rfl, rfl⟩

/-! ### SILENCE (R224) -/

/-- `next` is one step from `sample` toward `target`, or at it (R224). -/
def StepsToward (target sample next : U8) : Prop :=
  if target.toNat < sample.toNat then next.toNat + 1 = sample.toNat
  else if sample.toNat < target.toNat then next.toNat = sample.toNat + 1
  else next = sample

/-- `fadeToward` is such a step: neither direction wraps. -/
theorem stepsToward_fadeToward (target sample : U8) : StepsToward target sample (fadeToward target sample) := by
  have hs := sample.isLt
  have ht := target.isLt
  have one : (1 : U8).toNat = 1 := rfl
  unfold StepsToward fadeToward
  split_ifs with above below
  · rw [BitVec.toNat_sub, one]
    omega
  · rw [BitVec.toNat_add, one]
    omega
  · rfl

/-- SILENCE completes under an honest report (R224, R251). -/
theorem exec_silence {s : State} (honest : s.inputs.writable ≤ s.freeCapacity) :
    exec .silence s = .next (fillSink (fade s)) :=
  execSilence_eq_next.2 ⟨honest, rfl⟩

/-- The fade counter steps down on 8 bits. -/
theorem fade_fadeCounter_toNat (s : State) : (fade s).fadeCounter.toNat = (s.fadeCounter.toNat + 255) % 256 := by
  rw [fade, BitVec.toNat_sub, Nat.add_comm]
  rfl

/-- The held sample steps when the fade counter reads 0. -/
theorem fade_sample_of_zero {s : State} (h : s.fadeCounter = 0) :
    (fade s).sample = fadeToward s.cfg.silenceTarget s.sample := if_pos h

/-- It is kept at every other count. -/
theorem fade_sample_of_ne {s : State} (h : s.fadeCounter ≠ 0) : (fade s).sample = s.sample := if_neg h

/-- Settles O47: the count gates the step, the sink is filled with the held sample, and the rest stands. -/
theorem silenceFadesAndFills : Obligations.SilenceFadesAndFills := by
  refine ⟨rfl, fun s honest => ⟨_, exec_silence honest, fade_fadeCounter_toNat s, ?_, rfl, fun _ => rfl, fun _ => rfl,
    rfl, rfl, rfl, rfl, rfl, rfl, rfl, rfl, rfl, rfl⟩⟩
  by_cases count : s.fadeCounter = 0
  · have steps : StepsToward s.cfg.silenceTarget s.sample (fade s).sample :=
      fade_sample_of_zero count ▸ stepsToward_fadeToward _ _
    simp only [count, true_and]
    exact steps
  · simp only [count, false_and, if_false]
    exact fade_sample_of_ne count

/-- A count that has not run down from 255 is not 0. -/
theorem count_ne_zero {count : U8} {j : Nat} (h : count.toNat = 255 - j) (hj : j < 255) : count ≠ 0 := by
  rintro rfl
  exact Nat.sub_ne_zero_of_lt hj h.symm

section

variable {v : Nat → State} (start : (v 0).fadeCounter = 255)
  (honest : ∀ j, j < 256 → (v j).inputs.writable ≤ (v j).freeCapacity)
  (between : ∀ j t, j < 255 → exec .silence (v j) = .next t →
    (v (j + 1)).sample = t.sample ∧ (v (j + 1)).fadeCounter = t.fadeCounter ∧ (v (j + 1)).cfg = t.cfg)

include start honest between

/-- In a row of SILENCE commands from count 255, the count before command `j` is `255 - j`, and up to the 256th command the
held sample and the configuration are the first's (R222, R224). -/
theorem silenceRow_before {j : Nat} (hj : j ≤ 255) :
    (v j).sample = (v 0).sample ∧ (v j).fadeCounter.toNat = 255 - j ∧ (v j).cfg = (v 0).cfg := by
  induction j with
  | zero => exact ⟨rfl, congrArg BitVec.toNat start, rfl⟩
  | succ j ih =>
    obtain ⟨sample, counter, cfg⟩ := ih (Nat.le_of_succ_le hj)
    obtain ⟨sample', counter', cfg'⟩ := between j _ hj (exec_silence (honest j (Nat.lt_succ_of_lt hj)))
    refine ⟨(sample'.trans (fade_sample_of_ne (count_ne_zero counter hj))).trans sample, ?_, cfg'.trans cfg⟩
    rw [counter', fillSink, State.pushMany_fadeCounter, fade_fadeCounter_toNat, counter]
    omega

end

/-- Settles O48: the count before each command by `silenceRow_before`; it is 0 before the 256th and not before. -/
theorem silenceStepsEvery256Calls : Obligations.SilenceStepsEvery256Calls := by
  intro v start honest between
  have before {j : Nat} (hj : j ≤ 255) := silenceRow_before start honest between hj
  refine ⟨fun j hj => ?_, ?_⟩
  · obtain ⟨sample, counter, -⟩ := before (Nat.le_of_lt hj)
    have kept : (fade (v j)).sample = (v 0).sample := (fade_sample_of_ne (count_ne_zero counter hj)).trans sample
    refine ⟨_, exec_silence (honest j (Nat.lt_succ_of_lt hj)), kept, ?_, ?_⟩
    · rw [fillSink, State.pushMany_fadeCounter, fade_fadeCounter_toNat, counter]
      omega
    · rw [← kept]
      rfl
  · obtain ⟨sample, counter, cfg⟩ := before (le_refl 255)
    have zero : (v 255).fadeCounter = 0 := BitVec.eq_of_toNat_eq counter
    have steps : StepsToward (v 0).cfg.silenceTarget (v 0).sample (fade (v 255)).sample := by
      rw [fade_sample_of_zero zero, cfg, sample]
      exact stepsToward_fadeToward _ _
    have wraps : (fade (v 255)).fadeCounter = 255 := by
      rw [fade, zero]
      rfl
    exact ⟨_, exec_silence (honest 255 (by decide)), wraps, cfg, steps, rfl⟩

end Sys2Proof.Machine
end

section
/-! PROOF. What takes the place of exceptions (60_exceptions.md rules R250 to R253): which commands complete, which are ignored
and which are refused, and that an environment that keeps its contracts is never refused. -/

namespace Sys2Proof.Machine

/-! ### Commands (R250 to R252) -/

/-- An instrument operand in the range of R92 names an instrument. -/
theorem exists_instrumentOf_eq_some {i : BitVec 2} (ok : instrumentOperandOk i = true) : ∃ k, instrumentOf i = some k :=
  Option.ne_none_iff_exists'.1 (mt (instrumentOf_eq_none i).1 (bne_iff_ne.1 ok))

/-- Settles O15: TRIG and MORPH complete by their operand, RENDER and SILENCE by the report, every other command always. -/
theorem legalCommandsComplete : Obligations.LegalCommandsComplete := by
  intro i s wf honest
  cases i with
  | trig i v =>
    obtain ⟨k, names⟩ := exists_instrumentOf_eq_some wf
    exact ⟨_, execTrig_eq_next.2 ⟨k, names, rfl⟩⟩
  | morph i v =>
    obtain ⟨k, names⟩ := exists_instrumentOf_eq_some wf
    exact ⟨_, execMorph_eq_next.2 ⟨k, names, rfl⟩⟩
  | render =>
    obtain room | noRoom := le_or_gt s.cfg.blockSize s.inputs.writable
    · exact ⟨_, execRender_eq_next.2 ⟨honest, .inl ⟨room, rfl⟩⟩⟩
    · exact ⟨_, execRender_eq_next.2 ⟨honest, .inr ⟨noRoom, rfl⟩⟩⟩
  | silence => exact ⟨_, exec_silence honest⟩
  | setcc cc v =>
    cases entry : ccEntry cc with
    | some n => exact ⟨_, execSetcc_eq_next.2 (.inl ⟨n, entry, rfl⟩)⟩
    | none => exact ⟨_, execSetcc_eq_next.2 (.inr ⟨entry, rfl⟩)⟩
  | nop | setbw b | setbal m | idle => exact ⟨_, rfl⟩

/-- When the meanings of TRIG and MORPH refuse (R94, V1). -/
theorem execTrig_eq_refused {i : BitVec 2} {v : U8} {s : State} {r : Refusal} :
    execTrig i v s = .refused r ↔ i = 3#2 ∧ r = .illegalInstrument := onInstrument_eq_refused

theorem execMorph_eq_refused {i : BitVec 2} {v : U8} {s : State} {r : Refusal} :
    execMorph i v s = .refused r ↔ i = 3#2 ∧ r = .illegalInstrument := onInstrument_eq_refused

/-- When the meanings of RENDER and SILENCE refuse (R251 V3, R292). -/
theorem execRender_eq_refused {s : State} {r : Refusal} :
    execRender s = .refused r ↔ s.freeCapacity < s.inputs.writable ∧ r = .sinkOverReported := withSinkReport_eq_refused

theorem execSilence_eq_refused {s : State} {r : Refusal} :
    execSilence s = .refused r ↔ s.freeCapacity < s.inputs.writable ∧ r = .sinkOverReported := withSinkReport_eq_refused

/-- Settles O16: V1 is refused where an operand is made an instrument, V3 where a meaning samples the report. -/
theorem contractViolationsRefused : Obligations.ContractViolationsRefused := fun _ _ =>
  ⟨execTrig_eq_refused.2 ⟨rfl, rfl⟩, execMorph_eq_refused.2 ⟨rfl, rfl⟩, fun excess =>
    ⟨execRender_eq_refused.2 ⟨excess, rfl⟩, execSilence_eq_refused.2 ⟨excess, rfl⟩⟩⟩

/-- Settles O22: such a controller has no CC_MAP entry, and RENDER's test of the room fails. -/
theorem ignoredCommandsChangeNothing : Obligations.IgnoredCommandsChangeNothing :=
  ⟨fun _ _ _ outside => execSetcc_eq_next.2 (.inr ⟨ccEntry_eq_none_iff.2 outside, rfl⟩),
    fun _ honest noRoom => execRender_eq_next.2 ⟨honest, .inr ⟨noRoom, rfl⟩⟩⟩

/-! ### Contractual runs (R250, R251, R253) -/

section

variable {s : State} {rest : List Event}

/-- The contracts of a command word: it is in the opcode map, and a report of the environment's is within the room. -/
theorem State.nextArrivalContractual_command {cmd : CmdWord} {now : U32} {r : U8} {w : Option Nat}
    (arrives : s.arrivals = .command cmd now r w :: rest) :
    s.nextArrivalContractual = true ↔ (∃ i, decode cmd = .ok i) ∧ w.getD 0 ≤ s.freeCapacity := by
  simp only [State.nextArrivalContractual, arrives, Bool.and_eq_true, decide_eq_true_eq]
  cases decode cmd with
  | ok i => simp [Except.toOption]
  | error why => simp [Except.toOption]

/-- The contract of a DRAIN: the sink is not empty (R70). -/
theorem State.nextArrivalContractual_drain (arrives : s.arrivals = .drain :: rest) :
    s.nextArrivalContractual = true ↔ s.fifo ≠ [] := by
  simp [State.nextArrivalContractual, arrives]

/-- A contractual report is honest where it is sampled; the sink's own report always is (R70, R292). -/
theorem State.accept_writable_le {w : Option Nat} (within : w.getD 0 ≤ s.freeCapacity) (now : U32) (r : U8) :
    (s.accept now r w rest).inputs.writable ≤ (s.accept now r w rest).freeCapacity := by
  cases w with
  | none => exact le_refl s.freeCapacity
  | some n => exact within

/-- A DRAIN of a non-empty sink takes place (R70). -/
theorem exists_drain_eq_next (nonempty : s.fifo ≠ []) : ∃ t, s.drain rest = .next t := by
  obtain ⟨v, later, fifo⟩ := List.exists_cons_of_ne_nil nonempty
  exact ⟨_, drain_eq_next.2 ⟨v, later, fifo, rfl⟩⟩

end

/-- A step that breaks no contract is a step (R250, R253). -/
theorem exists_step_eq_next {s : State} (wf : s.cfg.wf = true) (contractual : s.nextArrivalContractual = true) :
    ∃ t, step s = .next t := by
  cases arrives : s.arrivals with
  | nil => exact ⟨s, step_eq_next.2 ⟨wf, .inl ⟨arrives, rfl⟩⟩⟩
  | cons event rest =>
    cases event with
    | command cmd now r w =>
      obtain ⟨⟨i, decodes⟩, within⟩ := (State.nextArrivalContractual_command arrives).1 contractual
      rw [step_command wf arrives, runCommand_of_decode decodes]
      exact legalCommandsComplete i _ (encodeOfDecode cmd i decodes).2 (State.accept_writable_le within now r)
    | drain =>
      rw [step_drain wf arrives]
      exact exists_drain_eq_next ((State.nextArrivalContractual_drain arrives).1 contractual)
    | rst => exact ⟨_, step_eq_next.2 ⟨wf, .inr (.inr (.inr ⟨rest, arrives, rfl⟩))⟩⟩

/-- Contracts kept for `n + 1` steps are kept by the next arrival. -/
theorem State.nextArrivalContractual_of_keepsContracts {s : State} {n : Nat} (h : s.keepsContracts (n + 1) = true) :
    s.nextArrivalContractual = true :=
  Bool.and_elim_left h

/-- Settles O53, by induction on the steps: each is a step, which keeps the configuration well formed and the rest of the
contracts. -/
theorem contractualRunsAreNeverRefused : Obligations.ContractualRunsAreNeverRefused := by
  intro s n wf keeps
  induction n generalizing s with
  | zero => exact ⟨s, (s.runsTo_zero s).2 rfl⟩
  | succ n ih =>
    obtain ⟨t, steps⟩ := exists_step_eq_next wf (State.nextArrivalContractual_of_keepsContracts keeps)
    have wf' : t.cfg.wf = true := by rwa [stepKeepsConfiguration s t steps]
    rw [State.keepsContracts_succ steps, Bool.and_eq_true] at keeps
    obtain ⟨-, rest⟩ := keeps
    obtain ⟨u, runs⟩ := ih t wf' rest
    exact ⟨u, (s.runsTo_succ u n).2 ⟨t, steps, runs⟩⟩

end Sys2Proof.Machine
end

section
/-! PROOF. Reset and boot (70_reset_and_hazards.md rules R280, R281, R285 and R297): the step that waits, the assertion of
`rst`, and what the boot sequence INIT leaves in the PATCH space (30_encoding.md rule R97). -/

namespace Sys2Proof

theorem Instrument.index_val_ne {j k : Instrument} (h : j ≠ k) : j.index.val ≠ k.index.val := by
  cases j <;> cases k <;> revert h <;> decide

theorem Instrument.index_surjective : ∀ n : Fin 3, ∃ k : Instrument, k.index = n
  | 0 => ⟨.bd, rfl⟩
  | 1 => ⟨.sd, rfl⟩
  | 2 => ⟨.hh, rfl⟩

/-- Every patch offset is one of an instrument's six fields (R22). -/
theorem exists_eq_flatOffset (o : PatchOffset) : ∃ k f, o = flatOffset k f := by
  have := o.isLt
  obtain ⟨k, index⟩ := Instrument.index_surjective ⟨o.val / 6, by omega⟩
  refine ⟨k, ⟨o.val % 6, Nat.mod_lt _ (by decide)⟩, Fin.ext ?_⟩
  rw [Machine.flatOffset_val, index]
  exact (Nat.div_add_mod o.val 6).symm

/-- Every patch byte is a `level` or one of the fields 0 to 4 that MORPH writes (R21, R22, R151). -/
theorem eq_level_or_eq_morphField (o : PatchOffset) :
    (∃ k, o = fieldOffset k .level) ∨ ∃ k, ∃ f : Fin 5, o = flatOffset k f.castSucc := by
  obtain ⟨k, f, rfl⟩ := exists_eq_flatOffset o
  cases f using Fin.lastCases with
  | last => exact .inl ⟨k, rfl⟩
  | cast f => exact .inr ⟨k, f, rfl⟩

namespace Machine

/-! ### Waiting and `rst` (R280, R281, R297) -/

/-- Settles O10: of what a step can do, an empty list of arrivals leaves the wait. -/
theorem stepWaitsForArrivals : Obligations.StepWaitsForArrivals :=
  fun _ wf arrives => step_eq_next.2 ⟨wf, .inl ⟨arrives, rfl⟩⟩

/-- An assertion of `rst` that arrives is the hard reset (R280). -/
theorem step_rst {s : State} {rest : List Event} (wf : s.cfg.wf = true) (h : s.arrivals = .rst :: rest) :
    step s = .next (s.hardReset rest) :=
  step_eq_next.2 ⟨wf, .inr (.inr (.inr ⟨rest, h, rfl⟩))⟩

theorem hardReset_voice (s : State) (rest : List Event) (k : Instrument) : (s.hardReset rest).voice k = DrumState.zero := by
  cases k <;> rfl

/-- Settles O12: the step is the hard reset, whose values are read off its definition. -/
theorem hardResetRestoresRegisters : Obligations.HardResetRestoresRegisters := by
  intro s rest wf arrives
  exact ⟨s.hardReset rest, step_rst wf arrives, fun _ => rfl, hardReset_voice s rest, rfl, rfl, rfl, rfl, rfl, rfl, rfl,
    ⟨rfl, rfl, rfl⟩, rfl, rfl, rfl⟩

/-! ### The boot sequence INIT (R97, R285) -/

/-- The `level` byte SETBAL gives an instrument (R154). -/
def balanceLevel (m : U8) : Instrument → U8
  | .bd => balanceBass m
  | .sd => balanceSnare m
  | .hh => balanceHihat m

/-- SETBAL establishes every `level` byte. -/
theorem setbal_patchByte_level (m : U8) {s t : State} (hw : s.patch.wf = true) (h : execSetbal m s = .next t)
    (k : Instrument) : t.patchByte (fieldOffset k .level) = balanceLevel m k := by
  obtain ⟨bass, snare, hihat⟩ := setbal_levels m hw h
  cases k with
  | bd => exact bass
  | sd => exact snare
  | hh => exact hihat

theorem setbal_wf {m : U8} {s t : State} (hw : s.patch.wf = true) (h : execSetbal m s = .next t) : t.patch.wf = true := by
  cases h
  exact State.writePatch_wf (State.writePatch_wf (State.writePatch_wf hw _ _) _ _) _ _

theorem morph_wf {s : State} (hw : s.patch.wf = true) (v : U8) (k : Instrument) : (morph v k s).patch.wf = true :=
  (morphFields_patch v k _ hw).1

/-- MORPH writes no `level` byte (R151). -/
theorem morph_patchByte_level {s : State} (hw : s.patch.wf = true) (v : U8) (k j : Instrument) :
    (morph v k s).patchByte (fieldOffset j .level) = s.patchByte (fieldOffset j .level) := by
  refine morph_patchByte_of_outside hw v ?_
  have level : (fieldOffset j .level).val = 6 * j.index.val + 5 := rfl
  omega

/-- MORPH writes no byte of another instrument (R151). -/
theorem morph_patchByte_of_ne {s : State} (hw : s.patch.wf = true) (v : U8) {k j : Instrument} (h : j ≠ k) (f : Fin 6) :
    (morph v k s).patchByte (flatOffset j f) = s.patchByte (flatOffset j f) := by
  refine morph_patchByte_of_outside hw v ?_
  have apart := Instrument.index_val_ne h
  rw [flatOffset_val]
  omega

/-- MORPH of every instrument to its position, in the order of INIT. -/
def morphAll (position : Instrument → U8) (s : State) : State :=
  morph (position .hh) .hh (morph (position .sd) .sd (morph (position .bd) .bd s))

theorem morph_sampleRate (v : U8) (k : Instrument) (s : State) : (morph v k s).sampleRate = s.sampleRate := by
  rw [morph_eq]

theorem morphAll_sampleRate (position : Instrument → U8) (s : State) : (morphAll position s).sampleRate = s.sampleRate := by
  simp only [morphAll, morph_sampleRate]

section

variable {s : State} (hw : s.patch.wf = true) (position : Instrument → U8)

include hw

/-- Each instrument's fields are written by its own MORPH and by no later one. -/
theorem morphAll_patchByte_field (k : Instrument) (f : Fin 5) :
    (morphAll position s).patchByte (flatOffset k f.castSucc) = morphByte s.cfg k (position k) f := by
  have bd := morph_wf hw (position .bd) .bd
  have sd := morph_wf bd (position .sd) .sd
  unfold morphAll
  cases k with
  | bd => rw [morph_patchByte_of_ne sd _ (by decide), morph_patchByte_of_ne bd _ (by decide), morph_patchByte_field hw]
  | sd => rw [morph_patchByte_of_ne sd _ (by decide), morph_patchByte_field bd]; rfl
  | hh => rw [morph_patchByte_field sd]; rfl

/-- The three MORPHs leave every `level` byte. -/
theorem morphAll_patchByte_level (k : Instrument) :
    (morphAll position s).patchByte (fieldOffset k .level) = s.patchByte (fieldOffset k .level) := by
  have bd := morph_wf hw (position .bd) .bd
  have sd := morph_wf bd (position .sd) .sd
  rw [morphAll, morph_patchByte_level sd, morph_patchByte_level bd, morph_patchByte_level hw]

end

/-- The operand of INIT that is an instrument's MORPH position. -/
def initPosition (v0 v1 v2 : U8) : Instrument → U8
  | .bd => v0
  | .sd => v1
  | .hh => v2

/-- A command that completes hands its state to the rest of the sequence (R75). -/
theorem execAll_cons {i : Instr} {s t : State} (h : exec i s = .next t) (rest : List Instr) :
    execAll (i :: rest) s = execAll rest t := by
  rw [execAll, h]

/-- INIT is SETBW and SETBAL, after which every instrument is morphed (R97). -/
theorem execAll_initCommands (b m v0 v1 v2 : U8) (s : State) :
    ∃ t u, exec (.setbw b) s = .next t ∧ exec (.setbal m) t = .next u ∧
      execAll (initCommands b m v0 v1 v2) s = .next (morphAll (initPosition v0 v1 v2) u) := by
  obtain ⟨t, setbw⟩ : ∃ t, exec (.setbw b) s = .next t := ⟨_, rfl⟩
  obtain ⟨u, setbal⟩ : ∃ u, exec (.setbal m) t = .next u := ⟨_, rfl⟩
  refine ⟨t, u, setbw, setbal, ?_⟩
  rw [initCommands, execAll_cons setbw, execAll_cons setbal,
    execAll_cons (exec_morph (i := 0) (k := .bd) rfl v0 _),
    execAll_cons (exec_morph (i := 1) (k := .sd) rfl v1 _),
    execAll_cons (exec_morph (i := 2) (k := .hh) rfl v2 _)]
  rfl

/-- The value INIT gives every patch byte and `sample_rate`: the operands and the configuration alone decide it (R285). -/
theorem execAll_initCommands_establishes (b m v0 v1 v2 : U8) {s : State} (hw : s.patch.wf = true) :
    ∃ t, execAll (initCommands b m v0 v1 v2) s = .next t ∧ t.sampleRate = decimationOf b ∧
      (∀ k, t.patchByte (fieldOffset k .level) = balanceLevel m k) ∧
      ∀ k (f : Fin 5), t.patchByte (flatOffset k f.castSucc) = morphByte s.cfg k (initPosition v0 v1 v2 k) f := by
  obtain ⟨t, u, setbw, setbal, run⟩ := execAll_initCommands b m v0 v1 v2 s
  have rate : u.sampleRate = decimationOf b := by cases setbw; cases setbal; rfl
  have cfg : u.cfg = s.cfg := (exec_cfg setbal).trans (exec_cfg setbw)
  have wft : t.patch.wf = true := by cases setbw; exact hw
  have wfu : u.patch.wf = true := setbal_wf wft setbal
  refine ⟨_, run, (morphAll_sampleRate _ u).trans rate, fun k => ?_, fun k f => ?_⟩
  · rw [morphAll_patchByte_level wfu, setbal_patchByte_level m wft setbal]
  · rw [morphAll_patchByte_field wfu, cfg]

/-- Settles O56: from either state INIT leaves the values its operands and the configuration decide, at every `level` and at
every other field. -/
theorem initIgnoresEarlierState : Obligations.InitIgnoresEarlierState := by
  intro s u b m v0 v1 v2 cfg hs hu
  obtain ⟨s', runs, rates, levels, fields⟩ := execAll_initCommands_establishes b m v0 v1 v2 hs
  obtain ⟨u', runu, rateu, levelu, fieldu⟩ := execAll_initCommands_establishes b m v0 v1 v2 hu
  refine ⟨s', u', runs, runu, rates.trans rateu.symm, fun o => ?_⟩
  obtain ⟨k, rfl⟩ | ⟨k, f, rfl⟩ := eq_level_or_eq_morphField o
  · rw [levels, levelu]
  · rw [fields, fieldu, cfg]

end Machine

end Sys2Proof
end
